-- ==== Sys2Proof/Word.lean ====
section
/-! DEFINITION. The word types: block registers are 32 bits wide, memory is bytes (spec/00_scope.md R9, spec/20_memory.md R60, R61). -/

namespace Sys2Proof

/-- A 32-bit block register or command word (R9, R100). -/
abbrev Word := BitVec 32

/-- One byte of PKT, RING or a byte array register (R29, R60, R61). -/
abbrev Byte := BitVec 8

end Sys2Proof
end

