-- ==== Sys2Proof/Config.lean ====
section
/-! DEFINITION. The fixed sizes of the block (spec/00_scope.md R7), the parameters the spec leaves open (R8,
spec/20_memory.md R63) and the free value of bytes nobody wrote (spec/10_state.md R38, spec/42_ring.md R201). -/

namespace Sys2Proof.Config

/-- HDR_SIZE (R7). -/
def hdrSize : Nat := 28

/-- MAX_PAYLOAD (R7). -/
def maxPayload : Nat := 1436

/-- PKT_SIZE = MAX_PACKET (R7, R8, R60). -/
def pktSize : Nat := 1464

/-- NAME_SIZE (R7). -/
def nameSize : Nat := 16

/-- EXPNAME_MAXLEN: the longest expected stream name (R7, R32). -/
def expNameMaxLen : Nat := 15

/-- SR_COUNT: the defined sample-rate indices are 0 to 20 (R7, R142). -/
def srCount : Nat := 21

/-- DEFAULT_PORT, recorded for completeness; no rule of the block reads it (R7). -/
def defaultPort : Nat := 6980

/-- The parameters a model takes as arguments (R8, R63): they stand in State as data that no step changes, so a
statement about every state holds for every value of them. -/
structure Params where
  /-- MAGIC (R8), which ID_MAGIC reads (R34). -/
  magic : Word
  /-- SR_NOT_FOUND (R8, R144). -/
  srNotFound : Word
  /-- CAP_MAX (R8), which ID_CAPMAX reads (R34). -/
  capMax : Word
  /-- BASE, the platform's base address of the register window (R63). -/
  base : Word
deriving DecidableEq, Repr

/-- The free value of a memory byte that has an unspecified value: the byte at an offset as the draw of that number
left it (R38, R201, D26). It has no body, so nothing can be proved of its value. Log entry 3. -/
opaque drawnByte (draw offset : Nat) : Byte

end Sys2Proof.Config
end

