-- ==== Sys2Proof/Syntax.lean ====
section
/-! DEFINITION. The command set: one constructor per row of spec/opcode_table.json (spec/30_encoding.md R102).
Operands are not in the word (R100): no constructor has a field. -/

namespace Sys2Proof

/-- The 21 commands of PHC-MRB (R102). -/
inductive Instr where
  | hdrDecode
  | hdrEncode
  | packSrsp
  | packFmt
  | unpackSrsp
  | unpackFmt
  | srToHz
  | hzToSr
  | dtSize
  | expectLen
  | rxClassify
  | rbInit
  | rbDeinit
  | rbWrite
  | rbRegion
  | rbConsume
  | rbCount
  | rbCapacity
  | rbFree
  | rbEmpty
  | rbFull
deriving DecidableEq, Repr

end Sys2Proof
end

