-- ==== Sys2Proof/WellFormed.lean ====
section
/-! DEFINITION. Well-formedness: of a command (it has no operands, so every one is), of a command word
(spec/30_encoding.md R100, R103), of a bus access width (spec/20_memory.md R66) and of the parameters
(spec/00_scope.md R8). -/

namespace Sys2Proof

/-- Every command is well-formed: it carries no operand to check (R100). -/
def Instr.wf : Instr → Bool
  | .hdrDecode | .hdrEncode | .packSrsp | .packFmt | .unpackSrsp | .unpackFmt | .srToHz | .hzToSr
  | .dtSize | .expectLen | .rxClassify | .rbInit | .rbDeinit | .rbWrite | .rbRegion | .rbConsume
  | .rbCount | .rbCapacity | .rbFree | .rbEmpty | .rbFull => true

/-- The MBZ field, bits [31:8], is zero (R100). -/
def wordMbzOk (w : Word) : Bool := w.toNat / 256 == 0

/-- The OP field, bits [7:0], is in the opcode map: 0x10–0x1A or 0x20–0x29 (R102, R103). -/
def wordOpOk (w : Word) : Bool :=
  let op := w.toNat % 256
  (0x10 ≤ op && op ≤ 0x1A) || (0x20 ≤ op && op ≤ 0x29)

/-- A legal command word (R104). -/
def wordWf (w : Word) : Bool := wordMbzOk w && wordOpOk w

/-- The access widths of the bus (R66). -/
def widthOk (n : Nat) : Bool := n == 1 || n == 4

/-- CAP_MAX holds the source's scenario (R8, D21). -/
def capMaxLowOk (p : Config.Params) : Bool := 1436 ≤ p.capMax.toNat

/-- CAP_MAX < 2^31, so that every ring sum fits in 32 bits (R8, R16). -/
def capMaxHighOk (p : Config.Params) : Bool := p.capMax.toNat < 2 ^ 31

/-- SR_NOT_FOUND is no defined index 0–20 (R8, R144). -/
def srNotFoundOk (p : Config.Params) : Bool := 21 ≤ p.srNotFound.toNat

/-- The parameters are ones the spec admits (R8). -/
def paramsWf (p : Config.Params) : Bool := capMaxLowOk p && capMaxHighOk p && srNotFoundOk p

end Sys2Proof
end

