-- ==== Sys2Proof/Decode.lean ====
section
/-! DEFINITION. The command word's decoder, total on every word and rejecting by name (spec/30_encoding.md R100,
R103, R104), and its encoder, both from the opcode map R102. -/

namespace Sys2Proof

/-- Why a word is illegal (R103). -/
inductive DecodeError where
  /-- bits [31:8] are not zero -/
  | mbzNonzero
  /-- OP is not in the opcode map -/
  | unknownOpcode (op : Nat)
deriving DecidableEq, Repr

/-- OP, bits [7:0] of the command word (R100). -/
def opField (w : Word) : Nat := w.toNat % 256

/-- MBZ, bits [31:8] of the command word (R100). -/
def mbzField (w : Word) : Nat := w.toNat / 256

/-- The opcode map read from OP to command (R102). -/
def decodeOp : Nat → Option Instr
  | 0x10 => some .hdrDecode
  | 0x11 => some .hdrEncode
  | 0x12 => some .packSrsp
  | 0x13 => some .packFmt
  | 0x14 => some .unpackSrsp
  | 0x15 => some .unpackFmt
  | 0x16 => some .srToHz
  | 0x17 => some .hzToSr
  | 0x18 => some .dtSize
  | 0x19 => some .expectLen
  | 0x1A => some .rxClassify
  | 0x20 => some .rbInit
  | 0x21 => some .rbDeinit
  | 0x22 => some .rbWrite
  | 0x23 => some .rbRegion
  | 0x24 => some .rbConsume
  | 0x25 => some .rbCount
  | 0x26 => some .rbCapacity
  | 0x27 => some .rbFree
  | 0x28 => some .rbEmpty
  | 0x29 => some .rbFull
  | _ => none

/-- The command a word stands for, or why it stands for none (R103, R104). -/
def decode (w : Word) : Except DecodeError Instr :=
  if mbzField w ≠ 0 then .error .mbzNonzero
  else match decodeOp (opField w) with
    | some i => .ok i
    | none => .error (.unknownOpcode (opField w))

/-- The opcode map read from command to OP (R102). -/
def opcode : Instr → Byte
  | .hdrDecode => 0x10
  | .hdrEncode => 0x11
  | .packSrsp => 0x12
  | .packFmt => 0x13
  | .unpackSrsp => 0x14
  | .unpackFmt => 0x15
  | .srToHz => 0x16
  | .hzToSr => 0x17
  | .dtSize => 0x18
  | .expectLen => 0x19
  | .rxClassify => 0x1A
  | .rbInit => 0x20
  | .rbDeinit => 0x21
  | .rbWrite => 0x22
  | .rbRegion => 0x23
  | .rbConsume => 0x24
  | .rbCount => 0x25
  | .rbCapacity => 0x26
  | .rbFree => 0x27
  | .rbEmpty => 0x28
  | .rbFull => 0x29

/-- The command word 0x000000OP (R100, R107). -/
def encode (i : Instr) : Word := (opcode i).setWidth 32

/-- The command word whose table bits are `w` (every bit above `nbits` is zero), and what the decoder reads from it. -/
def tableWord (nbits w : Nat) : Word := BitVec.ofNat 32 (w % 2 ^ nbits)

/-- The instruction the decoder reads from a table row's word. -/
def decodeTableWord (nbits w : Nat) : Option Instr :=
  match decode (tableWord nbits w) with
  | .ok i => some i
  | .error _ => none

end Sys2Proof
end

