-- ==== Sys2Proof/Machine/Params.lean ====
section
/-! DEFINITION. The values the parameters take at State.reset (spec/00_scope.md R8, spec/20_memory.md R63): the
spec's defaults where it gives one, the model's choice where the parameter is OPEN. -/

namespace Sys2Proof.Machine

/-- MAGIC's default, the tag "VBAN" read little-endian (R8, D8). PRESUMED, log entry 5. -/
def defaultMagic : Word := 0x4E414256

/-- SR_NOT_FOUND's default (R8, D13). PRESUMED, log entry 6. -/
def defaultSrNotFound : Word := 21

/-- CAP_MAX is OPEN (R8, D21): the least value the spec admits. DESIGN CHOICE, log entry 7. -/
def defaultCapMax : Word := 1436

/-- BASE is OPEN (R63). DESIGN CHOICE, log entry 8. -/
def defaultBase : Word := 0

/-- The parameters at State.reset. -/
def defaultParams : Config.Params :=
  { magic := defaultMagic, srNotFound := defaultSrNotFound, capMax := defaultCapMax, base := defaultBase }

end Sys2Proof.Machine
end

