-- ==== Sys2Proof/Machine/State.lean ====
section
/-! DEFINITION. The state of the block (spec/10_state.md R20), the host accesses still to come and their answers, the
reasons a step can stop, the status and verdict codes, and the state right after reset (R38). Plain data throughout. -/

namespace Sys2Proof.Machine

/-- A register the spec leaves unwritten at reset: its value, and whether anything has written it (R37). -/
structure Reg (w : Nat) where
  val : BitVec w
  written : Bool
deriving DecidableEq, Repr

/-- A register just written with a value. -/
def Reg.of {w : Nat} (v : BitVec w) : Reg w := { val := v, written := true }

/-- An unwritten register (R37). It holds 0: DESIGN CHOICE, log entry 1. -/
def Reg.unwritten {w : Nat} : Reg w := { val := 0, written := false }

/-- The header register file (R20 (b)). Bits [31:8] of the four byte registers read zero and drop writes, so 8 bits
are stored (R9, R26–R28). -/
structure Header where
  /-- HDR_SRSP (R26) -/
  srsp : Reg 8
  /-- HDR_NBS (R27) -/
  nbs : Reg 8
  /-- HDR_NBC (R27) -/
  nbc : Reg 8
  /-- HDR_FMT (R28) -/
  fmt : Reg 8
  /-- HDR_NAME[0..15] (R29) -/
  name : Vector (Reg 8) 16
  /-- HDR_FRAME (R30) -/
  frame : Reg 32
  /-- HDR_PLEN (R31) -/
  plen : Reg 32
deriving DecidableEq, Repr

/-- The ring registers (R33). -/
structure RingRegs where
  /-- RB_CAP, the capacity C; 0 means uninitialised -/
  cap : Word
  /-- RB_HEAD -/
  head : Word
  /-- RB_TAIL -/
  tail : Word
  /-- RB_COUNT -/
  count : Word
deriving DecidableEq, Repr

/-- A byte array: the bytes that hold a known value, listed by offset in strictly rising order, and the number of
the draw that gives every other byte its unspecified value (R38, log entry 3). -/
structure Memory where
  cells : List Host.Cell
  draw : Nat
deriving DecidableEq, Repr

/-- The two host agents (R6, R273). -/
inductive Agent where
  | producer
  | consumer
deriving DecidableEq, Repr

/-- The direction of a bus access, as a bus fault names it (R264). -/
inductive Dir where
  | read
  | write
deriving DecidableEq, Repr

/-- One host bus access: MemRead(addr, n) or MemWrite(addr, n, v) (R66). A one-byte write carries its byte in
bits [7:0] of v (log entry 11). -/
inductive Access where
  | read (addr : Word) (n : Nat)
  | write (addr : Word) (n : Nat) (v : Word)
deriving DecidableEq, Repr

/-- What the outside can do to the block: a bus access of one agent (R66), or the platform's reset (R290). -/
inductive HostEvent where
  | access (who : Agent) (a : Access)
  | reset
deriving DecidableEq, Repr

/-- The value a host read returned, and who read what. -/
structure Reply where
  who : Agent
  addr : Word
  n : Nat
  val : Word
deriving DecidableEq, Repr

/-- The 32-bit word registers of the address map, CMD apart (R63). -/
inductive WordReg where
  | opa | opb | opc | status | res0 | res1 | res2
  | hdrSrsp | hdrNbs | hdrNbc | hdrFmt | hdrFrame | hdrPlen
  | rbCap | rbHead | rbTail | rbCount
  | idCapMax | idMagic
deriving DecidableEq, Repr

/-- What a mapped offset names (R63): CMD, a word register, or a byte of one of the four byte arrays. -/
inductive Target where
  | cmd
  | reg (r : WordReg)
  | hdrName (i : Fin 16)
  | expName (i : Fin 16)
  | pkt (a : Nat)
  | ring (a : Nat)
deriving DecidableEq, Repr

/-- The state of the block (R20), its parameters, and the model's own fields for the host side and the draws. -/
structure State where
  /-- OPA (R23) -/
  opa : Reg 32
  /-- OPB (R23) -/
  opb : Reg 32
  /-- OPC (R23) -/
  opc : Reg 32
  /-- STATUS: bits [7:0], the code; bits [31:8] read zero (R24) -/
  status : Reg 8
  /-- RES0 (R25) -/
  res0 : Reg 32
  /-- RES1 (R25) -/
  res1 : Reg 32
  /-- RES2 (R25) -/
  res2 : Reg 32
  /-- the header register file (R26–R31) -/
  hdr : Header
  /-- CFG_EXPNAME[0..15] (R32) -/
  expName : Vector Byte 16
  /-- the ring registers (R33) -/
  rb : RingRegs
  /-- the packet buffer PKT (R60) -/
  pkt : Memory
  /-- the ring storage RING (R61) -/
  ring : Memory
  /-- the parameters, which ID_CAPMAX and ID_MAGIC read (R8, R34); no step changes them -/
  params : Config.Params
  /-- the host's accesses and reset requests still to come, in the global order of steps (R70); the model's own field, log entry 9 -/
  bus : List HostEvent
  /-- the answers of the host's reads, newest first; the model's own field, log entry 10 -/
  replies : List Reply
  /-- the number of the next draw of unspecified bytes; the model's own field, log entry 4 -/
  nextDraw : Nat
deriving DecidableEq, Repr

/-- Why the machine stops with a fault. -/
inductive Fault where
  /-- Raised by a host access that R66 or R68 refuses: an unmapped offset, a wrong width or alignment, a read of CMD,
  a write to a read-only register or RING byte, a read of RING outside live storage. It changes no block state and is
  the accessing agent's fault (R68, R264 (b)). Safe: the model stops where the spec stops. -/
  | busFault (who : Agent) (off : Nat) (n : Nat) (dir : Dir)
deriving DecidableEq, Repr

/-- Why an instruction has no meaning in the model. -/
inductive Refusal where
  /-- Raised by exec's arm of an instruction without a meaning; no arm raises it any more. Safe: the model stops
  where the hardware goes on. -/
  | notModelled (mnemonic : String)
deriving DecidableEq, Repr

/-- The status codes by name (R260). -/
inductive StatusCode where
  | ok
  | invalidArgument
  | allocFailed
  | bufferFull
  | consumeExceedsStored
  | packetTooShort
  | invalidMagic
  | payloadTooLarge
  | illegalCommand
deriving DecidableEq, Repr

/-- RX_CLASSIFY's verdicts by name (R148). -/
inductive Verdict where
  | accept
  | dropShort
  | dropMagic
  | dropName
  | dropSubproto
  | dropCodec
deriving DecidableEq, Repr

/-- An unwritten header register file (R38). -/
def Header.unwritten : Header :=
  { srsp := .unwritten, nbs := .unwritten, nbc := .unwritten, fmt := .unwritten,
    name := Vector.replicate 16 .unwritten, frame := .unwritten, plen := .unwritten }

/-- The ring registers of an uninitialised ring (R33, R38, R202). -/
def RingRegs.uninit : RingRegs := { cap := 0, head := 0, tail := 0, count := 0 }

/-- A memory whose bytes are all unspecified, drawn by the draw of that number (R38). -/
def Memory.drawn (d : Nat) : Memory := { cells := [], draw := d }

/-- The machine right after reset (R38, R290, R291): the ring uninitialised, CFG_EXPNAME zero, every other register
unwritten, PKT and RING unspecified, and no host access waiting. -/
def State.reset : State :=
  { opa := .unwritten, opb := .unwritten, opc := .unwritten, status := .unwritten,
    res0 := .unwritten, res1 := .unwritten, res2 := .unwritten,
    hdr := .unwritten, expName := Vector.replicate 16 0, rb := .uninit,
    pkt := .drawn 0, ring := .drawn 1, params := defaultParams,
    bus := [], replies := [], nextDraw := 2 }

end Sys2Proof.Machine
end

