-- ==== Sys2Proof/Machine/Ops.lean ====
section
/-! DEFINITION. The named operations: bytes of a memory (spec/00_scope.md R12), the updates of State, the codes of
the statuses and verdicts (spec/60_exceptions.md R260, spec/41_codec.md R148), and the two ways a command ends
(R13). The block takes no trap and returns from none (R266, R267): `fail` is the one thing an error does. -/

namespace Sys2Proof.Machine

/-! ### Memories -/

/-- The listed byte at an offset, if the list holds one. -/
def lookupCell : List Host.Cell → Nat → Option Byte
  | [], _ => none
  | c :: rest, a => if c.1 = a then some c.2 else lookupCell rest a

/-- The bytes of a run listed at rising offsets from `a`. -/
def cellsFrom : Nat → List Byte → List Host.Cell
  | _, [] => []
  | a, b :: bs => (a, b) :: cellsFrom (a + 1) bs

/-- The byte at an offset: the listed one, or the free value of the draw that left it unspecified (R38, log entry 3). -/
def Memory.read (m : Memory) (a : Nat) : Byte := (lookupCell m.cells a).getD (Config.drawnByte m.draw a)

/-- PktRead(a, n): the n bytes from offset a (R12). -/
def Memory.readRun (m : Memory) (a n : Nat) : List Byte := (List.range n).map fun i => m.read (a + i)

/-- PktWrite(a, bytes): the bytes stored from offset a on (R12). The list stays in strictly rising order. -/
def Memory.writeRun (m : Memory) (a : Nat) (bs : List Byte) : Memory :=
  { m with cells := m.cells.filter (fun c => c.1 < a) ++ cellsFrom a bs ++ m.cells.filter (fun c => a + bs.length ≤ c.1) }

/-- RingWrite(a, b): one byte stored at offset a (R12). -/
def Memory.write (m : Memory) (a : Nat) (b : Byte) : Memory := m.writeRun a [b]

/-- The bytes draw number d gives the offsets 0 to n−1 (R201). -/
def drawRun (d n : Nat) : List Byte := (List.range n).map fun a => Config.drawnByte d a

/-- The canonical form of a memory of `size` bytes: offsets strictly rising, each inside the memory. -/
abbrev Memory.wf (size : Nat) (m : Memory) : Prop :=
  m.cells.Pairwise (fun x y => x.1 < y.1) ∧ ∀ c ∈ m.cells, c.1 < size

/-! ### Updates of State -/

/-- OPA <- v. -/
def State.setOpa (s : State) (v : Word) : State := { s with opa := .of v }

/-- OPB <- v. -/
def State.setOpb (s : State) (v : Word) : State := { s with opb := .of v }

/-- OPC <- v. -/
def State.setOpc (s : State) (v : Word) : State := { s with opc := .of v }

/-- STATUS <- v (R24). -/
def State.setStatus (s : State) (v : Byte) : State := { s with status := .of v }

/-- RES0 <- v. -/
def State.setRes0 (s : State) (v : Word) : State := { s with res0 := .of v }

/-- RES1 <- v. -/
def State.setRes1 (s : State) (v : Word) : State := { s with res1 := .of v }

/-- RES2 <- v. -/
def State.setRes2 (s : State) (v : Word) : State := { s with res2 := .of v }

/-- The header register file, replaced. -/
def State.setHdr (s : State) (h : Header) : State := { s with hdr := h }

/-- CFG_EXPNAME, replaced. -/
def State.setExpName (s : State) (n : Vector Byte 16) : State := { s with expName := n }

/-- The ring registers, replaced. -/
def State.setRb (s : State) (r : RingRegs) : State := { s with rb := r }

/-- PKT, replaced. -/
def State.setPkt (s : State) (m : Memory) : State := { s with pkt := m }

/-- RING, replaced. -/
def State.setRing (s : State) (m : Memory) : State := { s with ring := m }

/-- The host accesses still to come, replaced. -/
def State.setBus (s : State) (es : List HostEvent) : State := { s with bus := es }

/-- One more answer of a host read. -/
def State.pushReply (s : State) (r : Reply) : State := { s with replies := r :: s.replies }

/-- One more draw taken. -/
def State.countDraw (s : State) : State := { s with nextDraw := s.nextDraw + 1 }

/-! ### How a command ends -/

/-- The number of a status (R260). -/
def statusNum : StatusCode → Byte
  | .ok => 0
  | .invalidArgument => 1
  | .allocFailed => 2
  | .bufferFull => 3
  | .consumeExceedsStored => 4
  | .packetTooShort => 5
  | .invalidMagic => 6
  | .payloadTooLarge => 7
  | .illegalCommand => 8

/-- The number of a verdict (R148). -/
def verdictNum : Verdict → Word
  | .accept => 0
  | .dropShort => 1
  | .dropMagic => 2
  | .dropName => 3
  | .dropSubproto => 4
  | .dropCodec => 5

/-- `finish OK`: STATUS <- 0, and every write the command made stands (R13). -/
def finishOk (s : State) : Host.Outcome State Fault Refusal := .next (s.setStatus (statusNum .ok))

/-- `fail <Status>`: STATUS <- the code, on the state from before the command (R13, R266). -/
def fail (c : StatusCode) (s : State) : Host.Outcome State Fault Refusal := .next (s.setStatus (statusNum c))

/-- The platform's reset: every piece of state at its value of R38, PKT and RING drawn anew; the parameters hold
(R290, R291), and the host's own fields stay (log entry 20). -/
def platformReset (s : State) : State :=
  { State.reset with
    pkt := .drawn s.nextDraw, ring := .drawn (s.nextDraw + 1), nextDraw := s.nextDraw + 2,
    params := s.params, bus := s.bus, replies := s.replies }

end Sys2Proof.Machine
end

