-- ==== Sys2Proof/Machine/Operands.lean ====
section
/-! DEFINITION. Operand forms: OPA, OPB, OPC as whole 32-bit unsigned values (spec/30_encoding.md R101), the range
check of a field operand (spec/41_codec.md R130), the bit fields of header bytes 4 and 7 (R91, R92) and the
little-endian words (spec/00_scope.md R12). -/

namespace Sys2Proof.Machine

/-- OPA as an unsigned value (R101, R130 (a)). -/
def operandA (s : State) : Nat := s.opa.val.toNat

/-- OPB as an unsigned value (R101, R130 (a)). -/
def operandB (s : State) : Nat := s.opb.val.toNat

/-- OPC as an unsigned value (R101, R130 (a)). -/
def operandC (s : State) : Nat := s.opc.val.toNat

/-- A field operand is in range for an n-bit field (R130 (b)). -/
def fitsField (n v : Nat) : Bool := v < 2 ^ n

/-- zext_32 of a byte (R10). -/
def zextByte (b : Byte) : Word := b.setWidth 32

/-- SR_IDX, bits [4:0] of header byte 4 (R91). -/
def srIdxField (b : Byte) : Byte := b &&& 0x1F

/-- SP_ID, bits [7:5] of header byte 4 (R91). -/
def spIdField (b : Byte) : Byte := (b >>> 5) &&& 0x07

/-- Header byte 4 from its fields (R91, R132). -/
def packSrspByte (sr sp : Nat) : Byte := (BitVec.ofNat 8 sp <<< 5) ||| BitVec.ofNat 8 sr

/-- DT_ID, bits [2:0] of header byte 7 (R92). -/
def dtIdField (b : Byte) : Byte := b &&& 0x07

/-- RSV, bit [3] of header byte 7 (R92). -/
def rsvField (b : Byte) : Byte := (b >>> 3) &&& 1

/-- CODEC, bits [7:4] of header byte 7 (R92). -/
def codecField (b : Byte) : Byte := (b >>> 4) &&& 0x0F

/-- Header byte 7 from its fields (R92, R133). -/
def packFmtByte (dt rsv codec : Nat) : Byte :=
  (BitVec.ofNat 8 codec <<< 4) ||| (BitVec.ofNat 8 rsv <<< 3) ||| BitVec.ofNat 8 dt

/-- le32 (R12). -/
def le32 (b0 b1 b2 b3 : Byte) : Word :=
  BitVec.ofNat 32 (b0.toNat + 256 * b1.toNat + 65536 * b2.toNat + 16777216 * b3.toNat)

/-- le32bytes (R12). -/
def le32bytes (v : Word) : List Byte :=
  [v.extractLsb' 0 8, v.extractLsb' 8 8, v.extractLsb' 16 8, v.extractLsb' 24 8]

/-- The magic field of the packet in PKT (R64). -/
def pktMagic (m : Memory) : Word := le32 (m.read 0) (m.read 1) (m.read 2) (m.read 3)

/-- The frame counter field of the packet in PKT (R64). -/
def pktFrame (m : Memory) : Word := le32 (m.read 24) (m.read 25) (m.read 26) (m.read 27)

end Sys2Proof.Machine
end

