-- ==== Sys2Proof/Machine/Tables.lean ====
section
/-! DEFINITION. The lookup tables: sample rates (spec/41_codec.md R142–R144), data-type sizes (R145), and the
expected payload length (R138). -/

namespace Sys2Proof.Machine

/-- SR_TABLE, the 21 defined rates in index order (R142). -/
def srTable : List Nat :=
  [6000, 12000, 24000, 48000, 96000, 192000, 384000, 8000, 16000, 32000, 64000, 128000, 256000, 512000,
   11025, 22050, 44100, 88200, 176400, 352800, 705600]

/-- The rate of an index, 0 for every index above 20 (R142, R143). -/
def srToHz (i : Nat) : Nat := srTable.getD i 0

/-- The ascending scan for a rate from index i on (R144). -/
def scanRates : Nat → List Nat → Nat → Option Nat
  | _, [], _ => none
  | i, r :: rs, hz => if r = hz then some i else scanRates (i + 1) rs hz

/-- The first defined index whose rate is hz (R144). -/
def hzToSr (hz : Nat) : Option Nat := scanRates 0 srTable hz

/-- BYTESIZE(0..7) (R95, R145). -/
def byteSizes : List Nat := [1, 2, 3, 4, 4, 8, 0, 0]

/-- The byte size of a data-type id, 0 for every id above 7 (R145). -/
def byteSize (dt : Nat) : Nat := byteSizes.getD dt 0

/-- exp_len (R138). -/
def expLen (nbs nbc fmt : Byte) : Nat := (nbs.toNat + 1) * (nbc.toNat + 1) * byteSize (dtIdField fmt).toNat

end Sys2Proof.Machine
end

