-- ==== Sys2Proof/Machine/Flags.lean ====
section
/-! DEFINITION. The flag-like results (spec/10_state.md R35): a comparison yields 1 for true and 0 for false when
stored in a register (spec/00_scope.md R15). -/

namespace Sys2Proof.Machine

/-- A comparison's value in a register (R15). -/
def flagWord (b : Bool) : Word := if b then 1 else 0

/-- The payload-length mismatch flag (R147, R149). -/
def mismatchFlag (plen expected : Nat) : Word := flagWord (plen != expected)

/-- The ring has no readable region: uninitialised or empty (R205). -/
def regionNull (r : RingRegs) : Bool := r.cap == 0 || r.count == 0

/-- RB_EMPTY's flag (R212). -/
def emptyFlag (r : RingRegs) : Word := flagWord (r.count == 0)

/-- RB_FULL's flag (R213). -/
def fullFlag (r : RingRegs) : Word := flagWord (r.cap != 0 && r.count == r.cap)

end Sys2Proof.Machine
end

