-- ==== Sys2Proof/Machine/Codec.lean ====
section
/-! DEFINITION. The meanings of the codec commands (spec/41_codec.md), each from its rule's pseudocode. -/

namespace Sys2Proof.Machine

/-- load_header: the header register file from PKT[4..27]; HDR_PLEN keeps its value (R131). -/
def loadHeader (m : Memory) (h : Header) : Header :=
  { srsp := .of (m.read 4), nbs := .of (m.read 5), nbc := .of (m.read 6), fmt := .of (m.read 7),
    name := Vector.ofFn fun i : Fin 16 => .of (m.read (8 + i.val)),
    frame := .of (pktFrame m), plen := h.plen }

/-- hdr_bytes: the 28-byte header image (R137). -/
def hdrBytes (p : Config.Params) (h : Header) : List Byte :=
  le32bytes p.magic ++ [h.srsp.val, h.nbs.val, h.nbc.val, h.fmt.val] ++ h.name.toList.map Reg.val
    ++ le32bytes h.frame.val

/-- The header register file a decode of len bytes leaves (R140, R149). -/
def decodedHeader (m : Memory) (h : Header) (len : Nat) : Header :=
  { loadHeader m h with plen := .of (BitVec.ofNat 32 (len - Config.hdrSize)) }

/-- An expected name is configured and the header's name differs from it in some byte (R149). -/
def nameMismatch (cfg : Vector Byte 16) (h : Header) : Bool :=
  cfg[0] != 0 && h.name.toList.map Reg.val != cfg.toList

/-- The verdict on a decoded header: the filters in the source's order (R149). -/
def filterVerdict (cfg : Vector Byte 16) (h : Header) : Verdict :=
  if nameMismatch cfg h then .dropName
  else if spIdField h.srsp.val ≠ 0 then .dropSubproto
  else if codecField h.fmt.val ≠ 0 then .dropCodec
  else .accept

/-- The three result registers written at once. -/
def State.setResults (s : State) (a b c : Word) : State := ((s.setRes0 a).setRes1 b).setRes2 c

/-- HDR_DECODE (R140). -/
def execHdrDecode (s : State) : Host.Outcome State Fault Refusal :=
  let len := operandA s
  if len > Config.pktSize then fail .invalidArgument s
  else if len < Config.hdrSize then fail .packetTooShort s
  else if pktMagic s.pkt ≠ s.params.magic then fail .invalidMagic s
  else
    finishOk (((s.setHdr (decodedHeader s.pkt s.hdr len)).setRes0 (BitVec.ofNat 32 Config.hdrSize)).setRes1
      (BitVec.ofNat 32 (len - Config.hdrSize)))

/-- HDR_ENCODE (R141). -/
def execHdrEncode (s : State) : Host.Outcome State Fault Refusal :=
  let plen := operandA s
  if plen > Config.maxPayload then fail .payloadTooLarge s
  else
    finishOk (((s.setPkt (s.pkt.writeRun 0 (hdrBytes s.params s.hdr))).setHdr
      { s.hdr with plen := .of (BitVec.ofNat 32 plen) }).setRes0 (BitVec.ofNat 32 (Config.hdrSize + plen)))

/-- PACK_SRSP (R132). -/
def execPackSrsp (s : State) : Host.Outcome State Fault Refusal :=
  let sr := operandA s
  let sp := operandB s
  if fitsField 5 sr && fitsField 3 sp then
    finishOk ((s.setHdr { s.hdr with srsp := .of (packSrspByte sr sp) }).setRes0 (zextByte (packSrspByte sr sp)))
  else fail .invalidArgument s

/-- PACK_FMT (R133). -/
def execPackFmt (s : State) : Host.Outcome State Fault Refusal :=
  let dt := operandA s
  let rsv := operandB s
  let codec := operandC s
  if fitsField 3 dt && fitsField 1 rsv && fitsField 4 codec then
    finishOk ((s.setHdr { s.hdr with fmt := .of (packFmtByte dt rsv codec) }).setRes0
      (zextByte (packFmtByte dt rsv codec)))
  else fail .invalidArgument s

/-- UNPACK_SRSP (R134). -/
def execUnpackSrsp (s : State) : Host.Outcome State Fault Refusal :=
  let b := s.hdr.srsp.val
  finishOk ((s.setRes0 (zextByte (srIdxField b))).setRes1 (zextByte (spIdField b)))

/-- UNPACK_FMT (R135). -/
def execUnpackFmt (s : State) : Host.Outcome State Fault Refusal :=
  let b := s.hdr.fmt.val
  finishOk (s.setResults (zextByte (dtIdField b)) (zextByte (rsvField b)) (zextByte (codecField b)))

/-- SR_TO_HZ (R143). -/
def execSrToHz (s : State) : Host.Outcome State Fault Refusal :=
  finishOk (s.setRes0 (BitVec.ofNat 32 (srToHz (operandA s))))

/-- HZ_TO_SR (R144). -/
def execHzToSr (s : State) : Host.Outcome State Fault Refusal :=
  match hzToSr (operandA s) with
  | some i => finishOk (s.setRes0 (BitVec.ofNat 32 i))
  | none => finishOk (s.setRes0 s.params.srNotFound)

/-- DT_SIZE (R145). -/
def execDtSize (s : State) : Host.Outcome State Fault Refusal :=
  finishOk (s.setRes0 (BitVec.ofNat 32 (byteSize (operandA s))))

/-- EXPECT_LEN (R147). -/
def execExpectLen (s : State) : Host.Outcome State Fault Refusal :=
  let e := expLen s.hdr.nbs.val s.hdr.nbc.val s.hdr.fmt.val
  finishOk ((s.setRes0 (BitVec.ofNat 32 e)).setRes1 (mismatchFlag s.hdr.plen.val.toNat e))

/-- RX_CLASSIFY (R149). -/
def execRxClassify (s : State) : Host.Outcome State Fault Refusal :=
  let len := operandA s
  if len > Config.pktSize then fail .invalidArgument s
  else if s.expName[15] ≠ 0 then fail .invalidArgument s
  else if len < Config.hdrSize then finishOk (s.setResults (verdictNum .dropShort) 0 0)
  else if pktMagic s.pkt ≠ s.params.magic then finishOk (s.setResults (verdictNum .dropMagic) 0 0)
  else
    let h := decodedHeader s.pkt s.hdr len
    let e := expLen h.nbs.val h.nbc.val h.fmt.val
    finishOk ((s.setHdr h).setResults (verdictNum (filterVerdict s.expName h)) (BitVec.ofNat 32 e)
      (mismatchFlag h.plen.val.toNat e))

end Sys2Proof.Machine
end

