-- ==== Sys2Proof/Machine/Ring.lean ====
section
/-! DEFINITION. The meanings of the ring commands (spec/42_ring.md), each from its rule's pseudocode. C is RB_CAP
(R200 (a)); sums are exact naturals (R200 (b), R16). -/

namespace Sys2Proof.Machine

/-- Bytes stored at a run of offsets and at the mirror offsets +c (R203). -/
def Memory.writeMirrored (m : Memory) (c a : Nat) (bs : List Byte) : Memory := (m.writeRun a bs).writeRun (a + c) bs

/-- RING after len bytes of PKT from src are written at head h of a ring of capacity c: the head segment up to the
wrap, then the wrapped segment, each with its mirror (R203). -/
def ringAppend (ring pkt : Memory) (c h src len : Nat) : Memory :=
  let seg1 := min len (c - h)
  (ring.writeMirrored c h (pkt.readRun src seg1)).writeMirrored c 0 (pkt.readRun (src + seg1) (len - seg1))

/-- Free space, 0 when uninitialised (R203, R211). -/
def ringFree (r : RingRegs) : Nat := r.cap.toNat - r.count.toNat

/-- RB_INIT (R201). -/
def execRbInit (s : State) : Host.Outcome State Fault Refusal :=
  let cap := operandA s
  if cap = 0 then fail .invalidArgument s
  else if cap > s.params.capMax.toNat then fail .allocFailed s
  else
    finishOk (((s.setRb { cap := BitVec.ofNat 32 cap, head := 0, tail := 0, count := 0 }).setRing
      (s.ring.writeRun 0 (drawRun s.nextDraw (2 * cap)))).countDraw)

/-- RB_DEINIT (R202). -/
def execRbDeinit (s : State) : Host.Outcome State Fault Refusal :=
  finishOk (s.setRb { cap := 0, head := 0, tail := 0, count := 0 })

/-- RB_WRITE (R203). -/
def execRbWrite (s : State) : Host.Outcome State Fault Refusal :=
  let src := operandA s
  let len := operandB s
  let c := s.rb.cap.toNat
  let h := s.rb.head.toNat
  if len = 0 then finishOk s
  else if src + len > Config.pktSize then fail .invalidArgument s
  else if ringFree s.rb < len then fail .bufferFull s
  else
    finishOk ((s.setRing (ringAppend s.ring s.pkt c h src len)).setRb
      { s.rb with head := BitVec.ofNat 32 ((h + len) % c), count := BitVec.ofNat 32 (s.rb.count.toNat + len) })

/-- RB_REGION (R205). -/
def execRbRegion (s : State) : Host.Outcome State Fault Refusal :=
  if regionNull s.rb then finishOk (((s.setRes0 0).setRes1 0).setRes2 0)
  else finishOk (((s.setRes0 s.rb.tail).setRes1 s.rb.count).setRes2 1)

/-- RB_CONSUME (R207). -/
def execRbConsume (s : State) : Host.Outcome State Fault Refusal :=
  let n := operandA s
  if n = 0 then finishOk s
  else if n > s.rb.count.toNat then fail .consumeExceedsStored s
  else
    finishOk (s.setRb
      { s.rb with
        tail := BitVec.ofNat 32 ((s.rb.tail.toNat + n) % s.rb.cap.toNat),
        count := BitVec.ofNat 32 (s.rb.count.toNat - n) })

/-- RB_COUNT (R209). -/
def execRbCount (s : State) : Host.Outcome State Fault Refusal := finishOk (s.setRes0 s.rb.count)

/-- RB_CAPACITY (R210). -/
def execRbCapacity (s : State) : Host.Outcome State Fault Refusal := finishOk (s.setRes0 s.rb.cap)

/-- RB_FREE (R211). -/
def execRbFree (s : State) : Host.Outcome State Fault Refusal :=
  finishOk (s.setRes0 (BitVec.ofNat 32 (ringFree s.rb)))

/-- RB_EMPTY (R212). -/
def execRbEmpty (s : State) : Host.Outcome State Fault Refusal := finishOk (s.setRes0 (emptyFlag s.rb))

/-- RB_FULL (R213). -/
def execRbFull (s : State) : Host.Outcome State Fault Refusal := finishOk (s.setRes0 (fullFlag s.rb))

end Sys2Proof.Machine
end

