-- ==== Sys2Proof/Machine/Dispatch.lean ====
section
/-! DEFINITION. The meaning of each command (spec/30_encoding.md R102): one arm per constructor of Instr. -/

namespace Sys2Proof.Machine

def exec (i : Instr) (s : State) : Host.Outcome State Fault Refusal :=
  match i with
  | .hdrDecode => Sys2Proof.Machine.execHdrDecode s
  | .hdrEncode => Sys2Proof.Machine.execHdrEncode s
  | .packSrsp => Sys2Proof.Machine.execPackSrsp s
  | .packFmt => Sys2Proof.Machine.execPackFmt s
  | .unpackSrsp => Sys2Proof.Machine.execUnpackSrsp s
  | .unpackFmt => Sys2Proof.Machine.execUnpackFmt s
  | .srToHz => Sys2Proof.Machine.execSrToHz s
  | .hzToSr => Sys2Proof.Machine.execHzToSr s
  | .dtSize => Sys2Proof.Machine.execDtSize s
  | .expectLen => Sys2Proof.Machine.execExpectLen s
  | .rxClassify => Sys2Proof.Machine.execRxClassify s
  | .rbInit => Sys2Proof.Machine.execRbInit s
  | .rbDeinit => Sys2Proof.Machine.execRbDeinit s
  | .rbWrite => Sys2Proof.Machine.execRbWrite s
  | .rbRegion => Sys2Proof.Machine.execRbRegion s
  | .rbConsume => Sys2Proof.Machine.execRbConsume s
  | .rbCount => Sys2Proof.Machine.execRbCount s
  | .rbCapacity => Sys2Proof.Machine.execRbCapacity s
  | .rbFree => Sys2Proof.Machine.execRbFree s
  | .rbEmpty => Sys2Proof.Machine.execRbEmpty s
  | .rbFull => Sys2Proof.Machine.execRbFull s

end Sys2Proof.Machine
end

