-- ==== Sys2Proof/Machine/Bus.lean ====
section
/-! DEFINITION. The host's side of the block: the address map (spec/20_memory.md R63), the accesses it admits
(R66, R68), what they read and write (R69), the CMD write that runs a command (spec/10_state.md R22), the platform's
reset (spec/70_reset_and_hazards.md R290) and one step of the global order (R70). -/

namespace Sys2Proof.Machine

/-! ### The address map -/

/-- The offset of a word register (R63, R22–R34). -/
def regOffset : WordReg → Nat
  | .opa => 0x004
  | .opb => 0x008
  | .opc => 0x00C
  | .status => 0x010
  | .res0 => 0x014
  | .res1 => 0x018
  | .res2 => 0x01C
  | .hdrSrsp => 0x020
  | .hdrNbs => 0x024
  | .hdrNbc => 0x028
  | .hdrFmt => 0x02C
  | .hdrFrame => 0x030
  | .hdrPlen => 0x034
  | .rbCap => 0x060
  | .rbHead => 0x064
  | .rbTail => 0x068
  | .rbCount => 0x06C
  | .idCapMax => 0x070
  | .idMagic => 0x074

/-- What a 4-byte access at an offset names: a word row of R63, 4-aligned (R66). -/
def wordTarget : Nat → Option Target
  | 0x000 => some .cmd
  | 0x004 => some (.reg .opa)
  | 0x008 => some (.reg .opb)
  | 0x00C => some (.reg .opc)
  | 0x010 => some (.reg .status)
  | 0x014 => some (.reg .res0)
  | 0x018 => some (.reg .res1)
  | 0x01C => some (.reg .res2)
  | 0x020 => some (.reg .hdrSrsp)
  | 0x024 => some (.reg .hdrNbs)
  | 0x028 => some (.reg .hdrNbc)
  | 0x02C => some (.reg .hdrFmt)
  | 0x030 => some (.reg .hdrFrame)
  | 0x034 => some (.reg .hdrPlen)
  | 0x060 => some (.reg .rbCap)
  | 0x064 => some (.reg .rbHead)
  | 0x068 => some (.reg .rbTail)
  | 0x06C => some (.reg .rbCount)
  | 0x070 => some (.reg .idCapMax)
  | 0x074 => some (.reg .idMagic)
  | _ => none

/-- What a 1-byte access at an offset names: a byte row of R63 (R66). -/
def byteTarget (p : Config.Params) (off : Nat) : Option Target :=
  if h : 0x40 ≤ off ∧ off < 0x50 then some (.hdrName ⟨off - 0x40, by omega⟩)
  else if h : 0x50 ≤ off ∧ off < 0x60 then some (.expName ⟨off - 0x50, by omega⟩)
  else if 0x1000 ≤ off ∧ off < 0x1000 + Config.pktSize then some (.pkt (off - 0x1000))
  else if 0x10000 ≤ off ∧ off < 0x10000 + 2 * p.capMax.toNat then some (.ring (off - 0x10000))
  else none

/-- What an access of n bytes at an offset names, if R63 maps it and R66 admits its width and alignment. -/
def busTarget (p : Config.Params) (off n : Nat) : Option Target :=
  if n = 4 then wordTarget off else if n = 1 then byteTarget p off else none

/-- The offset of a host address from BASE (R63, R66; log entry 8). -/
def busOffset (p : Config.Params) (addr : Word) : Nat := (addr - p.base).toNat

/-! ### Reads and writes -/

/-- The value a word register reads as (R22–R34). -/
def readReg (s : State) : WordReg → Word
  | .opa => s.opa.val
  | .opb => s.opb.val
  | .opc => s.opc.val
  | .status => zextByte s.status.val
  | .res0 => s.res0.val
  | .res1 => s.res1.val
  | .res2 => s.res2.val
  | .hdrSrsp => zextByte s.hdr.srsp.val
  | .hdrNbs => zextByte s.hdr.nbs.val
  | .hdrNbc => zextByte s.hdr.nbc.val
  | .hdrFmt => zextByte s.hdr.fmt.val
  | .hdrFrame => s.hdr.frame.val
  | .hdrPlen => s.hdr.plen.val
  | .rbCap => s.rb.cap
  | .rbHead => s.rb.head
  | .rbTail => s.rb.tail
  | .rbCount => s.rb.count
  | .idCapMax => s.params.capMax
  | .idMagic => s.params.magic

/-- A host write of a word register; none where the register is read-only (R23–R34, R68). Bits [31:8] of a byte
register are dropped (R69). -/
def writeReg (s : State) (v : Word) : WordReg → Option State
  | .opa => some (s.setOpa v)
  | .opb => some (s.setOpb v)
  | .opc => some (s.setOpc v)
  | .hdrSrsp => some (s.setHdr { s.hdr with srsp := .of (v.setWidth 8) })
  | .hdrNbs => some (s.setHdr { s.hdr with nbs := .of (v.setWidth 8) })
  | .hdrNbc => some (s.setHdr { s.hdr with nbc := .of (v.setWidth 8) })
  | .hdrFmt => some (s.setHdr { s.hdr with fmt := .of (v.setWidth 8) })
  | .hdrFrame => some (s.setHdr { s.hdr with frame := .of v })
  | .status | .res0 | .res1 | .res2 | .hdrPlen | .rbCap | .rbHead | .rbTail | .rbCount | .idCapMax | .idMagic => none

/-- The value a target reads as; none for CMD and for RING outside live storage (R68). -/
def readTarget (s : State) : Target → Option Word
  | .cmd => none
  | .reg r => some (readReg s r)
  | .hdrName i => some (zextByte s.hdr.name[i].val)
  | .expName i => some (zextByte s.expName[i])
  | .pkt a => some (zextByte (s.pkt.read a))
  | .ring a => if a < 2 * s.rb.cap.toNat then some (zextByte (s.ring.read a)) else none

/-- A host write that stores its value; none for RING and the read-only registers (R68). CMD stores nothing: its
write is `runCommand`. -/
def writeTarget (s : State) (v : Word) : Target → Option State
  | .cmd => none
  | .reg r => writeReg s v r
  | .hdrName i => some (s.setHdr { s.hdr with name := s.hdr.name.set i (.of (v.setWidth 8)) })
  | .expName i => some (s.setExpName (s.expName.set i (v.setWidth 8)))
  | .pkt a => some (s.setPkt (s.pkt.write a (v.setWidth 8)))
  | .ring _ => none

/-- The command a CMD write of word w runs; an illegal word fails IllegalCommand (R22, R103, R263). -/
def runCommand (w : Word) (s : State) : Host.Outcome State Fault Refusal :=
  match decode w with
  | .ok i => exec i s
  | .error _ => fail .illegalCommand s

/-- One host bus access (R66–R69). -/
def busAccess (who : Agent) (s : State) : Access → Host.Outcome State Fault Refusal
  | .read addr n =>
    match (busTarget s.params (busOffset s.params addr) n).bind (readTarget s) with
    | some v => .next (s.pushReply { who := who, addr := addr, n := n, val := v })
    | none => .fault (.busFault who (busOffset s.params addr) n .read)
  | .write addr n v =>
    match busTarget s.params (busOffset s.params addr) n with
    | some .cmd => runCommand v s
    | some t =>
      match writeTarget s v t with
      | some s' => .next s'
      | none => .fault (.busFault who (busOffset s.params addr) n .write)
    | none => .fault (.busFault who (busOffset s.params addr) n .write)

/-- One thing the outside does (R66, R290). -/
def hostEvent (s : State) : HostEvent → Host.Outcome State Fault Refusal
  | .access who a => busAccess who s a
  | .reset => .next (platformReset s)

/-- One step of the global order: the next host access or reset request; with none waiting the block is idle and
keeps its state (R70, R275, R291). -/
def hostStep (s : State) : Host.Outcome State Fault Refusal :=
  match s.bus with
  | [] => .next s
  | e :: rest => hostEvent (s.setBus rest) e

/-- The producer's CMD write of a word, put before every other access still to come (R22, R105). -/
def pushCommand (s : State) (w : Word) : State :=
  s.setBus (.access .producer (.write s.params.base 4 w) :: s.bus)

end Sys2Proof.Machine
end

