-- ==== Sys2Proof/Machine/Step.lean ====
section
/-! DEFINITION. One step of the machine: the next host access of the global order (spec/20_memory.md R70), and the
state whose next step is the CMD write of a given word (spec/10_state.md R22). -/

namespace Sys2Proof.Machine

/-- One step: one host bus access with the command it starts, one reset, or nothing (R70, R275, R290). -/
def step (s : State) : Host.Outcome State Fault Refusal := hostStep s

/-- `s` with the producer's CMD write of the table's word as the very next access (R22; log entry 9). -/
def State.withFetchWord (s : State) (nbits w : Nat) : State := pushCommand s (tableWord nbits w)

end Sys2Proof.Machine
end

