-- ==== Sys2Proof/Machine/Receive.lean ====
section
/-! DEFINITION. The host receive procedure the block is built for (spec/70_reset_and_hazards.md R293), as the commands
the producer issues: a host program over the commands, no part of `step`. -/

namespace Sys2Proof.Machine

/-- The state after the producer's CMD write of a command, which every command answers with a next state (R22, R315). -/
def hostCommand (i : Instr) (s : State) : State :=
  match exec i s with
  | .next t => t
  | .fault _ | .refused _ => s

/-- The drain loop of R293 with chunk size k, at most `fuel` times round: the state it leaves and the chunks handed
off, each its physical offset and its length. -/
def drainLoop (k : Word) : Nat → State → State × List (Nat × Nat)
  | 0, s => (s, [])
  | fuel + 1, s =>
    let counted := hostCommand .rbCount s
    if counted.res0.val.toNat < k.toNat then (counted, [])
    else
      let region := hostCommand .rbRegion counted
      let r := drainLoop k fuel (hostCommand .rbConsume (region.setOpa k))
      (r.1, (region.res0.val.toNat, k.toNat) :: r.2)

/-- The receive procedure of R293 for the datagram of len bytes in PKT: classify, append the payload, drain. A datagram
that is not accepted hands off nothing. One that does not fit hands off nothing either: the drain loop is left out after
BufferFull (DESIGN CHOICE, safe, log entry 30: R293 does not say whether it runs). The loop goes round at most once per stored byte. For len < 28,
len − 28 is taken modulo 2^32 (DESIGN CHOICE, safe, log entry 28); it is computed only where RX_CLASSIFY failed and an
older RES0 = ACCEPT is looked at (log entry 25). -/
def receiveDatagram (len k : Word) (s : State) : State × List (Nat × Nat) :=
  let classified := hostCommand .rxClassify (s.setOpa len)
  if classified.res0.val ≠ verdictNum .accept then (classified, [])
  else
    let stored := hostCommand .rbWrite ((classified.setOpa 28).setOpb (len - 28))
    if stored.status.val = statusNum .bufferFull then (stored, [])
    else drainLoop k (stored.rb.count.toNat + 1) stored

end Sys2Proof.Machine
end

