-- ==== Sys2Proof/Machine/Script.lean ====
section
/-! DEFINITION. Host scripts (spec/30_encoding.md R105) and the pseudo-instructions (R106), as the bus accesses they
make. A script's branches and loops are the host's (spec/10_state.md R21). -/

namespace Sys2Proof.Machine

/-- The byte arrays a script names (R105, R63). -/
inductive ByteArr where
  | hdrName
  | cfgExpName
  | pkt
  | ring
deriving DecidableEq, Repr

/-- The offset of a byte array's first byte (R63). -/
def arrOffset : ByteArr → Nat
  | .hdrName => 0x0040
  | .cfgExpName => 0x0050
  | .pkt => 0x1000
  | .ring => 0x10000

/-- One statement of a host script (R105). SET and GET name any word register, CMD among them (`setCmd`, `getCmd`): so a
script may write any command word, an illegal one too, and a GET of CMD is the bus fault of R22. That CMD is one of
their registers is read from R63 and the table of 95_test_vectors.md section 3 (DEDUCED, log entry 29). A read
names its agent, and SETB may name RING, a bus fault, where R105 lists the other three arrays (log entry 29). The index
is any number and the list of bytes any list; what an index past its array's end does is the model's choice (DESIGN
CHOICE, log entry 31, at `stmtEvents`). -/
inductive Stmt where
  | set (r : WordReg) (v : Word)
  | setCmd (w : Word)
  | setb (arr : ByteArr) (i : Nat) (bs : List Byte)
  | exec (i : Instr)
  | get (who : Agent) (r : WordReg)
  | getCmd (who : Agent)
  | getb (who : Agent) (arr : ByteArr) (i : Nat)
deriving DecidableEq, Repr

/-- The host address of an offset (R63, R66). -/
def hostAddr (p : Config.Params) (off : Nat) : Word := p.base + BitVec.ofNat 32 off

/-- One byte write per byte, at rising offsets (R105). -/
def byteWrites (p : Config.Params) : Nat → List Byte → List HostEvent
  | _, [] => []
  | off, b :: bs => .access .producer (.write (hostAddr p off) 1 (zextByte b)) :: byteWrites p (off + 1) bs

/-- The bus accesses of a statement (R105). SETB and GETB go to the array's first offset plus the index, and the address map
decides what stands there. Where the index is past the array's end (HDR_NAME[16], or a SETB list that runs past it) R105
gives the script no meaning: that it still runs by its address, so that SETB HDR_NAME[16] writes CFG_EXPNAME[0], is the
model's choice (DESIGN CHOICE, unsafe for claims about such a script, log entry 31). -/
def stmtEvents (p : Config.Params) : Stmt → List HostEvent
  | .set r v => [.access .producer (.write (hostAddr p (regOffset r)) 4 v)]
  | .setb arr i bs => byteWrites p (arrOffset arr + i) bs
  | .setCmd w => [.access .producer (.write (hostAddr p 0) 4 w)]
  | .exec i => [.access .producer (.write (hostAddr p 0) 4 (encode i))]
  | .get who r => [.access who (.read (hostAddr p (regOffset r)) 4)]
  | .getCmd who => [.access who (.read (hostAddr p 0) 4)]
  | .getb who arr i => [.access who (.read (hostAddr p (arrOffset arr + i)) 1)]

/-- The pseudo-instructions (R106). -/
inductive Pseudo where
  | decode (len : Word)
  | encode (plen : Word)
  | packsr (sr sp : Word)
  | packfmt (dt rsv codec : Word)
  | srhz (idx : Word)
  | hzsr (hz : Word)
  | dtsize (dt : Word)
  | classify (len : Word)
  | rbinit (cap : Word)
  | rbwrite (src len : Word)
  | rbconsume (n : Word)
deriving DecidableEq, Repr

/-- The exact expansion of a pseudo-instruction (R106). -/
def expandPseudo : Pseudo → List Stmt
  | .decode len => [.set .opa len, .exec .hdrDecode]
  | .encode plen => [.set .opa plen, .exec .hdrEncode]
  | .packsr sr sp => [.set .opa sr, .set .opb sp, .exec .packSrsp]
  | .packfmt dt rsv codec => [.set .opa dt, .set .opb rsv, .set .opc codec, .exec .packFmt]
  | .srhz idx => [.set .opa idx, .exec .srToHz]
  | .hzsr hz => [.set .opa hz, .exec .hzToSr]
  | .dtsize dt => [.set .opa dt, .exec .dtSize]
  | .classify len => [.set .opa len, .exec .rxClassify]
  | .rbinit cap => [.set .opa cap, .exec .rbInit]
  | .rbwrite src len => [.set .opa src, .set .opb len, .exec .rbWrite]
  | .rbconsume n => [.set .opa n, .exec .rbConsume]

/-- The bus accesses of a script, in order. -/
def scriptEvents (p : Config.Params) (ss : List Stmt) : List HostEvent := (ss.map (stmtEvents p)).flatten

/-- The state with a script's accesses put before the ones still to come. -/
def loadScript (s : State) (ss : List Stmt) : State := s.setBus (scriptEvents s.params ss ++ s.bus)

end Sys2Proof.Machine
end

