-- ==== Sys2Proof/Machine/Written.lean ====
section
/-! DEFINITION. Written-ness (spec/10_state.md R37): which registers and bytes a command or host read reads, in the
order of its pseudocode, and which of them nothing has written. `step` does not stop on such a read (log entry 2);
Sys2Proof/Safety.lean's strictStep does. -/

namespace Sys2Proof.Machine

/-- The HDR_NAME bytes in order. -/
def nameTargets : List Target := (List.finRange 16).map .hdrName

/-- The registers and bytes a command's pseudocode reads at a state, of those R37 may find unwritten, in its order:
what a check stops before is not read (R130 (c), R265). CFG_EXPNAME, the ring registers, PKT and RING are never
unwritten (R38). -/
def commandReads (s : State) : Instr → List Target
  | .hdrDecode => [.reg .opa]
  | .hdrEncode =>
    if operandA s > Config.maxPayload then [.reg .opa]
    else [.reg .opa, .reg .hdrSrsp, .reg .hdrNbs, .reg .hdrNbc, .reg .hdrFmt] ++ nameTargets ++ [.reg .hdrFrame]
  | .packSrsp => [.reg .opa, .reg .opb]
  | .packFmt => [.reg .opa, .reg .opb, .reg .opc]
  | .unpackSrsp => [.reg .hdrSrsp]
  | .unpackFmt => [.reg .hdrFmt]
  | .srToHz => [.reg .opa]
  | .hzToSr => [.reg .opa]
  | .dtSize => [.reg .opa]
  | .expectLen => [.reg .hdrNbs, .reg .hdrNbc, .reg .hdrFmt, .reg .hdrPlen]
  | .rxClassify => [.reg .opa]
  | .rbInit => [.reg .opa]
  | .rbDeinit => []
  | .rbWrite => [.reg .opa, .reg .opb]
  | .rbRegion => []
  | .rbConsume => [.reg .opa]
  | .rbCount => []
  | .rbCapacity => []
  | .rbFree => []
  | .rbEmpty => []
  | .rbFull => []

/-- The target is a register or byte that nothing has written since reset (R37, R38). -/
def unwrittenAt (s : State) : Target → Bool
  | .reg .opa => !s.opa.written
  | .reg .opb => !s.opb.written
  | .reg .opc => !s.opc.written
  | .reg .status => !s.status.written
  | .reg .res0 => !s.res0.written
  | .reg .res1 => !s.res1.written
  | .reg .res2 => !s.res2.written
  | .reg .hdrSrsp => !s.hdr.srsp.written
  | .reg .hdrNbs => !s.hdr.nbs.written
  | .reg .hdrNbc => !s.hdr.nbc.written
  | .reg .hdrFmt => !s.hdr.fmt.written
  | .reg .hdrFrame => !s.hdr.frame.written
  | .reg .hdrPlen => !s.hdr.plen.written
  | .hdrName i => !s.hdr.name[i].written
  | .reg .rbCap | .reg .rbHead | .reg .rbTail | .reg .rbCount | .reg .idCapMax | .reg .idMagic => false
  | .cmd | .expName _ | .pkt _ | .ring _ => false

/-- What one host event reads: a host read its target, a CMD write what its command reads (R37). -/
def eventReads (s : State) : HostEvent → List Target
  | .access _ (.read addr n) =>
    match busTarget s.params (busOffset s.params addr) n with
    | some t => [t]
    | none => []
  | .access _ (.write addr n v) =>
    match busTarget s.params (busOffset s.params addr) n with
    | some .cmd =>
      match decode v with
      | .ok i => commandReads s i
      | .error _ => []
    | _ => []
  | .reset => []

/-- The first unwritten register or byte a host event reads, if any (R264 (a)). -/
def firstUnwritten (s : State) (e : HostEvent) : Option Target := (eventReads s e).find? (unwrittenAt s)

end Sys2Proof.Machine
end

