-- ==== Sys2Proof/Safety.lean ====
section
/-! DEFINITION. What the spec promises or asks of a run: the invariant of the state (spec/10_state.md R33), the history
of the bytes the ring took (R36, spec/42_ring.md R208), the model faults of spec/60_exceptions.md R264 and
spec/70_reset_and_hazards.md R310 as a checked step, and the host's obligations R312 and R313. -/

namespace Sys2Proof.Safety

open Sys2Proof.Machine

/-! ### The invariant -/

/-- The ring registers keep the invariant of R33. -/
def ringRegsInv (p : Config.Params) (r : RingRegs) : Prop :=
  (r.cap = 0 → r.head = 0 ∧ r.tail = 0 ∧ r.count = 0) ∧
  (r.cap ≠ 0 →
    r.cap.toNat ≤ p.capMax.toNat ∧ r.head.toNat < r.cap.toNat ∧ r.tail.toNat < r.cap.toNat ∧
    r.count.toNat ≤ r.cap.toNat ∧ r.head.toNat = (r.tail.toNat + r.count.toNat) % r.cap.toNat)

/-- The invariant of the state: the ring registers' (R33), the parameters' bounds (R8), STATUS a code of R260, and both
memories inside their sizes (R60, R61). The spec gives an unwritten STATUS no value: that the bound holds of it is the
model's choice (it holds 0 after reset, log entry 1). The canonical form of a memory, offsets strictly rising, is the
model's (log entry 3). -/
structure Inv (s : State) : Prop where
  ringRegs : ringRegsInv s.params s.rb
  params : paramsWf s.params = true
  status : s.status.val.toNat ≤ 8
  pkt : s.pkt.wf Config.pktSize
  ring : s.ring.wf (2 * s.params.capMax.toNat)

/-! ### The state reset leaves -/

/-- The state is as reset leaves it (R38): CFG_EXPNAME and the ring registers zero, every other register unwritten, PKT
and RING unspecified (each one draw of its own), and the read-only registers reading the parameters. What value an
unwritten register holds is left out: the spec gives none (R37). -/
structure AtReset (s : State) : Prop where
  operands : s.opa.written = false ∧ s.opb.written = false ∧ s.opc.written = false
  status : s.status.written = false
  results : s.res0.written = false ∧ s.res1.written = false ∧ s.res2.written = false
  header : s.hdr.srsp.written = false ∧ s.hdr.nbs.written = false ∧ s.hdr.nbc.written = false ∧
    s.hdr.fmt.written = false ∧ s.hdr.frame.written = false ∧ s.hdr.plen.written = false
  name : ∀ i : Fin 16, s.hdr.name[i].written = false
  expName : ∀ i : Fin 16, s.expName[i] = 0
  ringRegs : s.rb.cap = 0 ∧ s.rb.head = 0 ∧ s.rb.tail = 0 ∧ s.rb.count = 0
  memories : ∃ d e, d ≠ e ∧ (∀ a, s.pkt.read a = Config.drawnByte d a) ∧ ∀ a, s.ring.read a = Config.drawnByte e a
  parameters : readReg s .idCapMax = s.params.capMax ∧ readReg s .idMagic = s.params.magic

/-! ### The history of the ring -/

/-- The bytes every successful RB_WRITE since the last RB_INIT appended, in order, how many bytes RB_CONSUME took off
them, and how many successful RB_INIT, RB_DEINIT and reset there were (R36 (c), R208). It is kept beside the
machine, not in it. -/
structure History where
  written : List Byte
  consumed : Nat
  epoch : Nat
deriving DecidableEq, Repr

/-- A history in which nothing was written since the ring was last initialised or released. -/
def History.fresh (epoch : Nat) : History := { written := [], consumed := 0, epoch := epoch }

/-- What a command adds to the history, read off the state before it (R201, R202, R203, R207). -/
def historyOfCommand (s : State) (h : History) : Instr → History
  | .rbInit =>
    if 0 < operandA s ∧ operandA s ≤ s.params.capMax.toNat then .fresh (h.epoch + 1) else h
  | .rbDeinit => .fresh (h.epoch + 1)
  | .rbWrite =>
    if operandA s + operandB s ≤ Config.pktSize ∧ s.rb.count.toNat + operandB s ≤ s.rb.cap.toNat then
      { h with written := h.written ++ s.pkt.readRun (operandA s) (operandB s) }
    else h
  | .rbConsume => if operandA s ≤ s.rb.count.toNat then { h with consumed := h.consumed + operandA s } else h
  | _ => h

/-- What a host event adds to the history: only a CMD write of a ring command, or reset, does. -/
def historyOfEvent (s : State) (h : History) : HostEvent → History
  | .access _ (.write addr n v) =>
    match busTarget s.params (busOffset s.params addr) n with
    | some .cmd =>
      match decode v with
      | .ok i => historyOfCommand s h i
      | .error _ => h
    | _ => h
  | .access _ (.read _ _) => h
  | .reset => .fresh (h.epoch + 1)

/-- What one step of the machine adds to the history. -/
def historyStep (s : State) (h : History) : History :=
  match s.bus with
  | [] => h
  | e :: _ => historyOfEvent s h e

/-- What n steps of the machine add to the history. -/
def historyRun : Nat → State → History → History
  | 0, _, h => h
  | n + 1, s, h =>
    match step s with
    | .next t => historyRun n t (historyStep s h)
    | _ => historyStep s h

/-- The ring holds its history: RB_COUNT, RB_HEAD and RB_TAIL are the history's counts (R208), and the newest C bytes
of the history, live or stale, stand at both of their offsets, p and p + C (R36 (a), (b), (c)). -/
structure HoldsHistory (s : State) (h : History) : Prop where
  uninit : s.rb.cap = 0 → h.written = [] ∧ h.consumed = 0
  consumed : h.consumed + s.rb.count.toNat = h.written.length
  head : s.rb.cap ≠ 0 → s.rb.head.toNat = h.written.length % s.rb.cap.toNat
  tail : s.rb.cap ≠ 0 → s.rb.tail.toNat = h.consumed % s.rb.cap.toNat
  bytes : ∀ i b, h.written[i]? = some b → h.written.length ≤ i + s.rb.cap.toNat →
    s.ring.read (i % s.rb.cap.toNat) = b ∧ s.ring.read (i % s.rb.cap.toNat + s.rb.cap.toNat) = b

/-! ### The model faults -/

/-- A register with its value forgotten when nothing has written it. -/
def forgetReg {w : Nat} (r : Reg w) : Reg w := if r.written then r else .unwritten

/-- The header register file with the values of its unwritten registers forgotten. -/
def forgetHeader (h : Header) : Header :=
  { srsp := forgetReg h.srsp, nbs := forgetReg h.nbs, nbc := forgetReg h.nbc, fmt := forgetReg h.fmt,
    name := h.name.map forgetReg, frame := forgetReg h.frame, plen := forgetReg h.plen }

/-- The state with the values of its unwritten registers forgotten: what R37 lets a program see of it. -/
def forget (s : State) : State :=
  { s with
    opa := forgetReg s.opa, opb := forgetReg s.opb, opc := forgetReg s.opc, status := forgetReg s.status,
    res0 := forgetReg s.res0, res1 := forgetReg s.res1, res2 := forgetReg s.res2, hdr := forgetHeader s.hdr }

/-- Why a checked run stops. -/
inductive ModelFault where
  /-- The machine's own fault (R264 (b)). -/
  | machine (f : Fault)
  /-- A command or host read of a register or byte nothing has written (R37, R264 (a)). -/
  | readUnwritten (t : Target)
  /-- A consumer's read, at a physical offset, of a chunk byte the producer has overwritten (R310). -/
  | chunkOverwritten (off : Nat)
deriving DecidableEq, Repr

/-- A machine outcome as a checked one. -/
def checked : Host.Outcome State Fault Refusal → Host.Outcome State ModelFault Refusal
  | .next s => .next s
  | .fault f => .fault (.machine f)
  | .refused r => .refused r

/-- The step that stops with ReadUnwritten where R37 says so, before any status of the command (R265), and is `step`
everywhere else. -/
def strictStep (s : State) : Host.Outcome State ModelFault Refusal :=
  match s.bus with
  | [] => checked (step s)
  | e :: _ =>
    match firstUnwritten s e with
    | some t => .fault (.readUnwritten t)
    | none => checked (step s)

/-- A chunk handed to the consumer (R310): its physical offset and length, the number of its first byte in the
history, and the history's epoch when it was handed off. -/
structure Chunk where
  off : Nat
  len : Nat
  start : Nat
  epoch : Nat
deriving DecidableEq, Repr

/-- The chunk of k bytes the producer hands off at the tail, as in R293. -/
def handOff (s : State) (h : History) (k : Nat) : Chunk :=
  { off := s.rb.tail.toNat, len := k, start := h.consumed, epoch := h.epoch }

/-- Byte j of the chunk has been overwritten: C more bytes than its own number have been written since (R311). -/
def chunkByteLost (cap : Nat) (h : History) (c : Chunk) (j : Nat) : Bool :=
  c.epoch != h.epoch || c.start + j + cap < h.written.length

/-- The consumer's read of RING at a physical offset breaks the obligation of R310 on some chunk handed off. Where several
chunks of the list hold the offset, some live and some overwritten, one overwritten chunk is enough (DESIGN CHOICE, safe,
log entry 27: the spec does not say to which chunk a read belongs); a chunk stays in the list until the caller drops
it. -/
def readsLostByte (cap : Nat) (h : History) (cs : List Chunk) (off : Nat) : Bool :=
  cs.any fun c => c.off ≤ off && off < c.off + c.len && chunkByteLost cap h c (off - c.off)

/-- The physical offset of RING a host event makes the consumer read, if it does. -/
def consumerRingRead (s : State) : HostEvent → Option Nat
  | .access .consumer (.read addr n) =>
    match busTarget s.params (busOffset s.params addr) n with
    | some (.ring a) => some a
    | _ => none
  | _ => none

/-- The step that also stops with ChunkOverwritten where the obligation of R310 is broken (D34, log entry 14). A
consumer's RING read that breaks it and is a bus fault too (outside live storage, after RB_DEINIT, a reset or a smaller
RB_INIT) stops with ChunkOverwritten, not with the machine's BusFault (DESIGN CHOICE, safe, log entry 26: the spec gives
no order of the two). -/
def checkedStep (h : History) (cs : List Chunk) (s : State) : Host.Outcome State ModelFault Refusal :=
  match s.bus.head?.bind (consumerRingRead s) with
  | some a => if readsLostByte s.rb.cap.toNat h cs a then .fault (.chunkOverwritten a) else strictStep s
  | none => strictStep s

/-! ### The host's obligations -/

/-- The access keeps the roles of R313: the consumer only reads RING. -/
def roleOk (s : State) : HostEvent → Bool
  | .access .producer _ => true
  | .access .consumer a => (consumerRingRead s (.access .consumer a)).isSome
  | .reset => true

/-- The consumer reads only inside the chunks handed to it (R313). -/
def insideChunk (cs : List Chunk) (off : Nat) : Bool := cs.any fun c => c.off ≤ off && off < c.off + c.len

/-- The hand-off queue is sized as R312 asks: at least ⌈maxPayload / chunkSize⌉ + 2 entries. -/
def queueSized (chunkSize entries : Nat) : Bool :=
  (Config.maxPayload + chunkSize - 1) / chunkSize + 2 ≤ entries

end Sys2Proof.Safety
end

