-- ==== Sys2Proof/Certificates/Slice0/Obligations.lean ====
section
/-! DEFINITION. The statements for the provers, from the numbered rules of spec/. A result register, STATUS or a header
register that a statement gives a value is given as `.of v`: the value, and written. An equation with a record
update says the frame too: every field it does not name is as before. R37 stops a command or host read of an unwritten
register whatever its own rule says; exec and step read on there (the model's choice, log entry 2) and strictStep
stops. -/

open Sys2Proof Sys2Proof.Machine Sys2Proof.Safety

namespace Sys2Proof.Claims

/-- The first four bytes of a packet read little-endian (R64). -/
def wireMagic (m : Memory) : Nat :=
  (m.read 0).toNat + 256 * (m.read 1).toNat + 65536 * (m.read 2).toNat + 16777216 * (m.read 3).toNat

/-- The frame counter bytes of a packet read little-endian (R64). -/
def wireFrame (m : Memory) : Nat :=
  (m.read 24).toNat + 256 * (m.read 25).toNat + 65536 * (m.read 26).toNat + 16777216 * (m.read 27).toNat

/-- The header registers a successful decode of len bytes leaves (R131, R140). -/
def wireHeader (m : Memory) (len : Nat) : Header :=
  { srsp := .of (m.read 4), nbs := .of (m.read 5), nbc := .of (m.read 6), fmt := .of (m.read 7),
    name := Vector.ofFn fun i : Fin 16 => .of (m.read (8 + i.val)),
    frame := .of (BitVec.ofNat 32 (wireFrame m)), plen := .of (BitVec.ofNat 32 (len - 28)) }

/-- The byte size of data-type id dt (R95, R145). -/
def sizeOfType (dt : Nat) : Nat :=
  if dt = 0 then 1 else if dt = 1 then 2 else if dt = 2 then 3 else if dt = 3 then 4 else if dt = 4 then 4
  else if dt = 5 then 8 else 0

/-- The expected payload length of header bytes 5, 6 and 7 (R138). -/
def expectedLen (nbs nbc fmt : Byte) : Nat := (nbs.toNat + 1) * (nbc.toNat + 1) * sizeOfType (fmt.toNat % 8)

/-- The defined sample rates in index order (R142). -/
def rates : List Nat :=
  [6000, 12000, 24000, 48000, 96000, 192000, 384000] ++ [8000, 16000, 32000, 64000, 128000, 256000, 512000] ++
  [11025, 22050, 44100, 88200, 176400, 352800, 705600]

/-- The commands of the ring family (R102). -/
def ringCommands : List Instr :=
  [.rbInit, .rbDeinit, .rbWrite, .rbRegion, .rbConsume, .rbCount, .rbCapacity, .rbFree, .rbEmpty, .rbFull]

/-- The command a pseudo-instruction runs (R106). -/
def pseudoInstr : Pseudo → Instr
  | .decode _ => .hdrDecode
  | .encode _ => .hdrEncode
  | .packsr _ _ => .packSrsp
  | .packfmt _ _ _ => .packFmt
  | .srhz _ => .srToHz
  | .hzsr _ => .hzToSr
  | .dtsize _ => .dtSize
  | .classify _ => .rxClassify
  | .rbinit _ => .rbInit
  | .rbwrite _ _ => .rbWrite
  | .rbconsume _ => .rbConsume

/-- The operand registers a pseudo-instruction sets (R106). -/
def pseudoOperands (s : State) : Pseudo → State
  | .decode a | .encode a | .srhz a | .hzsr a | .dtsize a | .classify a | .rbinit a | .rbconsume a =>
    { s with opa := .of a }
  | .packsr a b | .rbwrite a b => { s with opa := .of a, opb := .of b }
  | .packfmt a b c => { s with opa := .of a, opb := .of b, opc := .of c }

/-- The register or byte a command's first read finds unwritten right after reset, if it reads one (R37). -/
def firstReadAtReset : Instr → Option Target
  | .unpackSrsp => some (.reg .hdrSrsp)
  | .unpackFmt => some (.reg .hdrFmt)
  | .expectLen => some (.reg .hdrNbs)
  | .rbDeinit | .rbRegion | .rbCount | .rbCapacity | .rbFree | .rbEmpty | .rbFull => none
  | .hdrDecode | .hdrEncode | .packSrsp | .packFmt | .srToHz | .hzToSr | .dtSize | .rxClassify | .rbInit | .rbWrite
  | .rbConsume => some (.reg .opa)

/-- The value a host read of a word register answers (R63, R23–R34): a byte register's bits [31:8] read zero. -/
def wordValue (s : State) : WordReg → Word
  | .opa => s.opa.val
  | .opb => s.opb.val
  | .opc => s.opc.val
  | .status => BitVec.ofNat 32 s.status.val.toNat
  | .res0 => s.res0.val
  | .res1 => s.res1.val
  | .res2 => s.res2.val
  | .hdrSrsp => BitVec.ofNat 32 s.hdr.srsp.val.toNat
  | .hdrNbs => BitVec.ofNat 32 s.hdr.nbs.val.toNat
  | .hdrNbc => BitVec.ofNat 32 s.hdr.nbc.val.toNat
  | .hdrFmt => BitVec.ofNat 32 s.hdr.fmt.val.toNat
  | .hdrFrame => s.hdr.frame.val
  | .hdrPlen => s.hdr.plen.val
  | .rbCap => s.rb.cap
  | .rbHead => s.rb.head
  | .rbTail => s.rb.tail
  | .rbCount => s.rb.count
  | .idCapMax => s.params.capMax
  | .idMagic => s.params.magic

/-- v is what a host read of the location answers; a byte is zero-extended (R63, R69; log entry 11). -/
def ReadAnswers (s : State) (v : Word) : Target → Prop
  | .cmd => False
  | .reg r => v = wordValue s r
  | .hdrName i => v = BitVec.ofNat 32 s.hdr.name[i].val.toNat
  | .expName i => v = BitVec.ofNat 32 s.expName[i].toNat
  | .pkt a => v = BitVec.ofNat 32 (s.pkt.read a).toNat
  | .ring a => v = BitVec.ofNat 32 (s.ring.read a).toNat

/-- t is s with a host write of v stored at the location and nothing else changed (R69): a word register keeps v, a byte
register, a name byte or a byte of PKT keeps bits [7:0]. No host write stores at any other location. -/
def WriteLeaves (s t : State) (v : Word) : Target → Prop
  | .reg .opa => t = { s with opa := .of v }
  | .reg .opb => t = { s with opb := .of v }
  | .reg .opc => t = { s with opc := .of v }
  | .reg .hdrSrsp => t = { s with hdr := { s.hdr with srsp := .of (BitVec.ofNat 8 v.toNat) } }
  | .reg .hdrNbs => t = { s with hdr := { s.hdr with nbs := .of (BitVec.ofNat 8 v.toNat) } }
  | .reg .hdrNbc => t = { s with hdr := { s.hdr with nbc := .of (BitVec.ofNat 8 v.toNat) } }
  | .reg .hdrFmt => t = { s with hdr := { s.hdr with fmt := .of (BitVec.ofNat 8 v.toNat) } }
  | .reg .hdrFrame => t = { s with hdr := { s.hdr with frame := .of v } }
  | .hdrName i =>
    t = { s with hdr := { s.hdr with name := t.hdr.name } } ∧ t.hdr.name[i] = .of (BitVec.ofNat 8 v.toNat) ∧
      ∀ j : Fin 16, j ≠ i → t.hdr.name[j] = s.hdr.name[j]
  | .expName i =>
    t = { s with expName := t.expName } ∧ t.expName[i] = BitVec.ofNat 8 v.toNat ∧
      ∀ j : Fin 16, j ≠ i → t.expName[j] = s.expName[j]
  | .pkt a =>
    t = { s with pkt := t.pkt } ∧ t.pkt.read a = BitVec.ofNat 8 v.toNat ∧ ∀ x, x ≠ a → t.pkt.read x = s.pkt.read x
  | .cmd | .ring _ | .reg .status | .reg .res0 | .reg .res1 | .reg .res2 | .reg .hdrPlen | .reg .rbCap | .reg .rbHead
  | .reg .rbTail | .reg .rbCount | .reg .idCapMax | .reg .idMagic => False

/-- The word rows of the address map, CMD apart (R63). -/
def wordRows : List (Nat × WordReg) :=
  [(0x04, .opa), (0x08, .opb), (0x0C, .opc), (0x10, .status), (0x14, .res0), (0x18, .res1), (0x1C, .res2)] ++
  [(0x20, .hdrSrsp), (0x24, .hdrNbs), (0x28, .hdrNbc), (0x2C, .hdrFmt), (0x30, .hdrFrame), (0x34, .hdrPlen)] ++
  [(0x60, .rbCap), (0x64, .rbHead), (0x68, .rbTail), (0x6C, .rbCount), (0x70, .idCapMax), (0x74, .idMagic)]

/-- What a command's rule reads of the registers R37 may find unwritten, in the order of its pseudocode (R132–R149,
R201–R213): HDR_ENCODE reads no header register when it fails PayloadTooLarge. That all operands are read at the start is
log entry 2. -/
def ruleReads (s : State) : Instr → List Target
  | .unpackSrsp => [.reg .hdrSrsp]
  | .unpackFmt => [.reg .hdrFmt]
  | .expectLen => [.reg .hdrNbs, .reg .hdrNbc, .reg .hdrFmt, .reg .hdrPlen]
  | .packSrsp | .rbWrite => [.reg .opa, .reg .opb]
  | .packFmt => [.reg .opa, .reg .opb, .reg .opc]
  | .hdrEncode =>
    if 1436 < s.opa.val.toNat then [.reg .opa]
    else [.reg .opa, .reg .hdrSrsp, .reg .hdrNbs, .reg .hdrNbc, .reg .hdrFmt] ++ (List.finRange 16).map .hdrName ++
      [.reg .hdrFrame]
  | .hdrDecode | .srToHz | .hzToSr | .dtSize | .rxClassify | .rbInit | .rbConsume => [.reg .opa]
  | .rbDeinit | .rbRegion | .rbCount | .rbCapacity | .rbFree | .rbEmpty | .rbFull => []

/-- What one host event reads (R37): a host read the location it names, a CMD write what its command reads. -/
def ruleEventReads (s : State) : HostEvent → List Target
  | .access _ (.read addr n) => (busTarget s.params (addr - s.params.base).toNat n).toList
  | .access _ (.write addr n w) =>
    if n = 4 ∧ addr = s.params.base then
      match decode w with
      | .ok i => ruleReads s i
      | .error _ => []
    else []
  | .reset => []

/-- The location holds no value yet (R37, R38). -/
def NoValueYet (s : State) : Target → Prop
  | .reg .opa => s.opa.written = false
  | .reg .opb => s.opb.written = false
  | .reg .opc => s.opc.written = false
  | .reg .status => s.status.written = false
  | .reg .res0 => s.res0.written = false
  | .reg .res1 => s.res1.written = false
  | .reg .res2 => s.res2.written = false
  | .reg .hdrSrsp => s.hdr.srsp.written = false
  | .reg .hdrNbs => s.hdr.nbs.written = false
  | .reg .hdrNbc => s.hdr.nbc.written = false
  | .reg .hdrFmt => s.hdr.fmt.written = false
  | .reg .hdrFrame => s.hdr.frame.written = false
  | .reg .hdrPlen => s.hdr.plen.written = false
  | .hdrName i => s.hdr.name[i].written = false
  | .reg .rbCap | .reg .rbHead | .reg .rbTail | .reg .rbCount | .reg .idCapMax | .reg .idMagic | .cmd | .expName _ | .pkt _
  | .ring _ => False

end Sys2Proof.Claims

open Sys2Proof.Claims

/-! ### The command word -/

/-- R22: a host write of w to CMD executes the command whose word is w, after which the host access is spent; a read
of CMD is a bus fault. -/
def Obligations.WrittenCommandWordRuns : Prop :=
  ∀ (s : State) (who : Agent) (rest : List HostEvent),
    (∀ (w : Word) (i : Instr), s.bus = .access who (.write s.params.base 4 w) :: rest → decode w = .ok i →
      i.wf = true → step s = exec i { s with bus := rest }) ∧
    (∀ n : Nat, s.bus = .access who (.read s.params.base n) :: rest → step s = .fault (.busFault who 0 n .read))

/-- R107: each command's word is 0x000000OP, the 21 words written out. -/
def Obligations.CommandWordsReadAsTheirCommands : Prop :=
  [0x00000010#32, 0x00000011#32, 0x00000012#32, 0x00000013#32, 0x00000014#32, 0x00000015#32, 0x00000016#32,
    0x00000017#32, 0x00000018#32, 0x00000019#32, 0x0000001A#32, 0x00000020#32, 0x00000021#32, 0x00000022#32,
    0x00000023#32, 0x00000024#32, 0x00000025#32, 0x00000026#32, 0x00000027#32, 0x00000028#32, 0x00000029#32].map decode =
  [Instr.hdrDecode, .hdrEncode, .packSrsp, .packFmt, .unpackSrsp, .unpackFmt, .srToHz, .hzToSr, .dtSize, .expectLen,
    .rxClassify, .rbInit, .rbDeinit, .rbWrite, .rbRegion, .rbConsume, .rbCount, .rbCapacity, .rbFree, .rbEmpty,
    .rbFull].map .ok

/-- R104: every word is either exactly one command (MBZ = 0 and OP in the table) or illegal; decode and encode agree
on every word and every command. -/
def Obligations.DecodingIsTotalAndExact : Prop :=
  ∀ w : Word,
    ((∃ i, decode w = .ok i) ↔
      w.toNat / 256 = 0 ∧ (0x10 ≤ w.toNat % 256 ∧ w.toNat % 256 ≤ 0x1A ∨ 0x20 ≤ w.toNat % 256 ∧ w.toNat % 256 ≤ 0x29)) ∧
    ∀ i, decode w = .ok i ↔ w = encode i

/-- R103, R263: a CMD write of a word with MBZ ≠ 0 or an OP outside the table sets STATUS to 8 and changes nothing
else. -/
def Obligations.IllegalWordSetsOnlyStatus : Prop :=
  ∀ (s : State) (who : Agent) (w : Word) (rest : List HostEvent),
    s.bus = .access who (.write s.params.base 4 w) :: rest →
    ¬ (w.toNat / 256 = 0 ∧
      (0x10 ≤ w.toNat % 256 ∧ w.toNat % 256 ≤ 0x1A ∨ 0x20 ≤ w.toNat % 256 ∧ w.toNat % 256 ≤ 0x29)) →
    step s = .next { s with bus := rest, status := .of 8 }

/-! ### Reset -/

/-- R38: what the spec says each piece of state holds after reset. The value an unwritten register holds is the
model's choice (log entry 1) and is not stated. -/
def Obligations.ResetLeavesTheStatedValues : Prop := AtReset State.reset

/-- R290: reset may come between any two commands and sets every piece of state to its value of R38, PKT and RING drawn
anew; RB_DEINIT is no reset: it changes only the ring registers (and STATUS). The numbers of the draws (log entries 3 and
4) and the host's queue and replies staying (log entry 20) are the model's own. -/
def Obligations.PlatformResetRestoresTheResetState : Prop :=
  (∀ (s : State) (rest : List HostEvent), s.bus = .reset :: rest →
    ∃ t, step s = .next t ∧ AtReset t ∧ t.params = s.params ∧ t.bus = rest ∧ t.replies = s.replies ∧
      (∀ a, t.pkt.read a = Config.drawnByte s.nextDraw a) ∧ (∀ a, t.ring.read a = Config.drawnByte (s.nextDraw + 1) a) ∧
      t.nextDraw = s.nextDraw + 2) ∧
  ∀ s : State, exec .rbDeinit s = .next { s with status := .of 0, rb := { cap := 0, head := 0, tail := 0, count := 0 } }

/-- R33 holds after reset, with the parameters at their default values (log entries 5 to 8: the model's choice), and
the reset ring holds the empty history. The invariant's bound on STATUS holds there because the unwritten STATUS, which R38
gives no value, holds 0 (the model's choice, log entry 1), and the canonical form of its memories is the model's (log
entry 3). -/
def Obligations.ResetStateMeetsTheInvariant : Prop := Inv State.reset ∧ HoldsHistory State.reset (.fresh 0)

/-! ### Invariants of every step -/

/-- R33 (the ring registers), R8 (the parameters' bounds), R260 (STATUS), R60 and R61 (the memories' extents), kept by
every step from every state that meets them. After a reset step STATUS is unwritten, and the spec gives it no value: that
its bound holds there is the model's choice (it holds 0, log entry 1). That a memory's listed offsets strictly rise is the
model's form of a memory (log entry 3). -/
def Obligations.EveryStepKeepsTheInvariant : Prop :=
  ∀ s t : State, Inv s → step s = .next t → Inv t

/-- R36, R208: every step, host accesses and reset included, keeps the ring holding the history of what was written:
cursors, FIFO contents, stale bytes and mirror copies. -/
def Obligations.EveryStepKeepsTheRingsHistory : Prop :=
  ∀ (s t : State) (h : History), Inv s → HoldsHistory s h → step s = .next t → HoldsHistory t (historyStep s h)

/-- R208, the FIFO law over every run of the machine: RB_COUNT is the bytes written minus the bytes consumed, RB_HEAD and
RB_TAIL are those numbers mod C, and the readable region holds exactly the bytes written and not yet consumed, in
write order. -/
def Obligations.EveryRunKeepsTheRingAFifo : Prop :=
  ∀ (n : Nat) (s t : State) (h : History), Inv s → HoldsHistory s h → Host.Core.run Sys2Proof.core n s = .next t →
    let g := historyRun n s h
    t.rb.count.toNat + g.consumed = g.written.length ∧
    (t.rb.cap ≠ 0 → t.rb.head.toNat = g.written.length % t.rb.cap.toNat ∧ t.rb.tail.toNat = g.consumed % t.rb.cap.toNat) ∧
    t.ring.readRun t.rb.tail.toNat t.rb.count.toNat = g.written.drop g.consumed

/-- R37: once written, a register or byte stays written until reset. -/
def Obligations.WrittenRegistersStayWritten : Prop :=
  ∀ (s t : State) (tg : Target), s.bus.head? ≠ some .reset → step s = .next t → unwrittenAt s tg = false →
    unwrittenAt t tg = false

/-- R37, R264: a step that reads no unwritten register cannot tell the values of unwritten registers: two states that
differ only in those values answer alike. -/
def Obligations.UnwrittenValuesAreNotObservable : Prop :=
  ∀ (s u : State) (e : HostEvent) (rest : List HostEvent), forget s = forget u → s.bus = e :: rest →
    firstUnwritten s e = none →
    (∃ s' u', step s = .next s' ∧ step u = .next u' ∧ forget s' = forget u') ∨
    (∃ f, step s = .fault f ∧ step u = .fault f)

/-- R37, R265: right after reset, the strict step stops every command that reads an unwritten register with
ReadUnwritten, naming the first, before any status; the commands that read none run. -/
def Obligations.StrictStepStopsUnwrittenReadsAtReset : Prop :=
  ∀ i : Instr, strictStep (State.reset.withFetchWord 32 (encode i).toNat) =
    match firstReadAtReset i with
    | some t => .fault (.readUnwritten t)
    | none => checked (exec i State.reset)

/-- R8, R34, R291: no step changes the parameters, which ID_CAPMAX and ID_MAGIC read. -/
def Obligations.ParametersNeverChange : Prop :=
  ∀ s t : State, step s = .next t → t.params = s.params

/-- R275, R291: with no host access waiting the block is idle and keeps every piece of state. -/
def Obligations.IdleBlockKeepsItsState : Prop := ∀ s : State, s.bus = [] → step s = .next s

/-! ### Every command -/

/-- R315, R266, R24: every command ends in a next state, from every state, with a status code of R260 in STATUS. That it
does so from a state in which a register it reads is unwritten, where R37, R264 (a) and R265 give a fault, is the model's
choice (log entry 2); strictStep stops there. -/
def Obligations.EveryCommandEndsWithAStatus : Prop :=
  ∀ (i : Instr) (s : State), ∃ t, exec i s = .next t ∧ t.status.written = true ∧ t.status.val.toNat ≤ 7

/-- R13, R266: a command whose status is not OK has written STATUS and nothing else. -/
def Obligations.FailingCommandWritesOnlyStatus : Prop :=
  ∀ (i : Instr) (s t : State), exec i s = .next t → t.status.val ≠ 0 → t = { s with status := t.status }

/-- R23, R32, R130 (e), R200 (e), R60, R61: no command writes the operand registers, CFG_EXPNAME or the host's side; no
codec command touches the ring registers or RING; no ring command touches the header registers or PKT; of the codec
commands only HDR_ENCODE writes PKT, and of the ring commands only RB_WRITE (and RB_INIT's draw) changes RING. -/
def Obligations.CommandsTouchOnlyTheirOwnState : Prop :=
  ∀ (i : Instr) (s t : State), exec i s = .next t →
    (t.opa = s.opa ∧ t.opb = s.opb ∧ t.opc = s.opc ∧ t.expName = s.expName ∧ t.params = s.params ∧ t.bus = s.bus ∧
      t.replies = s.replies) ∧
    (i ∉ ringCommands → t.rb = s.rb ∧ ∀ a, t.ring.read a = s.ring.read a) ∧
    (i ∈ ringCommands → t.hdr = s.hdr ∧ ∀ a, t.pkt.read a = s.pkt.read a) ∧
    (i ≠ .hdrEncode → ∀ a, t.pkt.read a = s.pkt.read a) ∧
    (i ≠ .rbWrite → i ≠ .rbInit → ∀ a, t.ring.read a = s.ring.read a)

/-! ### Pack and unpack -/

/-- R132: PACK_SRSP. -/
def Obligations.PackSrspFollowsItsRule : Prop :=
  decode 0x12 = .ok .packSrsp ∧
  ∀ s : State,
    let sr := s.opa.val.toNat
    let sp := s.opb.val.toNat
    exec .packSrsp s =
      if 32 ≤ sr ∨ 8 ≤ sp then .next { s with status := .of 1 }
      else .next { s with
        status := .of 0, hdr := { s.hdr with srsp := .of (BitVec.ofNat 8 (sp * 32 + sr)) },
        res0 := .of (BitVec.ofNat 32 (sp * 32 + sr)) }

/-- R133: PACK_FMT. -/
def Obligations.PackFmtFollowsItsRule : Prop :=
  decode 0x13 = .ok .packFmt ∧
  ∀ s : State,
    let dt := s.opa.val.toNat
    let rsv := s.opb.val.toNat
    let codec := s.opc.val.toNat
    exec .packFmt s =
      if 8 ≤ dt ∨ 2 ≤ rsv ∨ 16 ≤ codec then .next { s with status := .of 1 }
      else .next { s with
        status := .of 0, hdr := { s.hdr with fmt := .of (BitVec.ofNat 8 (codec * 16 + rsv * 8 + dt)) },
        res0 := .of (BitVec.ofNat 32 (codec * 16 + rsv * 8 + dt)) }

/-- R134, R91: UNPACK_SRSP. What an unwritten register holds is
read on with (the model's choice, log entry 2); strictStep stops there. -/
def Obligations.UnpackSrspFollowsItsRule : Prop :=
  decode 0x14 = .ok .unpackSrsp ∧
  ∀ s : State,
    exec .unpackSrsp s = .next { s with
      status := .of 0, res0 := .of (BitVec.ofNat 32 (s.hdr.srsp.val.toNat % 32)),
      res1 := .of (BitVec.ofNat 32 (s.hdr.srsp.val.toNat / 32)) }

/-- R135, R92: UNPACK_FMT. What an unwritten register holds is
read on with (the model's choice, log entry 2); strictStep stops there. -/
def Obligations.UnpackFmtFollowsItsRule : Prop :=
  decode 0x15 = .ok .unpackFmt ∧
  ∀ s : State,
    exec .unpackFmt s = .next { s with
      status := .of 0, res0 := .of (BitVec.ofNat 32 (s.hdr.fmt.val.toNat % 8)),
      res1 := .of (BitVec.ofNat 32 (s.hdr.fmt.val.toNat / 8 % 2)),
      res2 := .of (BitVec.ofNat 32 (s.hdr.fmt.val.toNat / 16)) }

/-- R98: pack and unpack are exact inverses on the fields' ranges. Packing fields in range finishes OK and leaves the byte of
R91 (R92) in the header register and zero-extended in RES0, and unpacking that byte, from any state whose header
register holds it, gives the fields back; unpacking a byte gives fields which packed, from any state that holds them as
operands, whatever its header register held, finish OK and leave the byte in the header register and zero-extended in
RES0. That an unwritten HDR_SRSP or HDR_FMT, or an unwritten operand, is read as well is the model's choice (log entry 2);
strictStep stops there. -/
def Obligations.PackAndUnpackAreInverses : Prop :=
  (∀ s : State, s.opa.val.toNat < 32 → s.opb.val.toNat < 8 →
    ∃ t, exec .packSrsp s = .next t ∧ t.status.val = 0 ∧
      t.hdr.srsp.val.toNat = s.opb.val.toNat * 32 + s.opa.val.toNat ∧ t.res0.val.toNat = t.hdr.srsp.val.toNat ∧
      ∀ v : State, v.hdr.srsp.val = t.hdr.srsp.val →
        ∃ u, exec .unpackSrsp v = .next u ∧ u.status.val = 0 ∧ u.res0.val = s.opa.val ∧ u.res1.val = s.opb.val) ∧
  (∀ s : State, s.opa.val.toNat < 8 → s.opb.val.toNat < 2 → s.opc.val.toNat < 16 →
    ∃ t, exec .packFmt s = .next t ∧ t.status.val = 0 ∧
      t.hdr.fmt.val.toNat = s.opc.val.toNat * 16 + s.opb.val.toNat * 8 + s.opa.val.toNat ∧
      t.res0.val.toNat = t.hdr.fmt.val.toNat ∧
      ∀ v : State, v.hdr.fmt.val = t.hdr.fmt.val →
        ∃ u, exec .unpackFmt v = .next u ∧ u.status.val = 0 ∧
          u.res0.val = s.opa.val ∧ u.res1.val = s.opb.val ∧ u.res2.val = s.opc.val) ∧
  (∀ s : State, ∃ t, exec .unpackSrsp s = .next t ∧ t.status.val = 0 ∧
    ∀ v : State, v.opa.val = t.res0.val → v.opb.val = t.res1.val →
      ∃ u, exec .packSrsp v = .next u ∧ u.status.val = 0 ∧ u.hdr.srsp = .of s.hdr.srsp.val ∧
        u.res0 = .of (BitVec.ofNat 32 s.hdr.srsp.val.toNat)) ∧
  (∀ s : State, ∃ t, exec .unpackFmt s = .next t ∧ t.status.val = 0 ∧
    ∀ v : State, v.opa.val = t.res0.val → v.opb.val = t.res1.val → v.opc.val = t.res2.val →
      ∃ u, exec .packFmt v = .next u ∧ u.status.val = 0 ∧ u.hdr.fmt = .of s.hdr.fmt.val ∧
        u.res0 = .of (BitVec.ofNat 32 s.hdr.fmt.val.toNat))

/-! ### Tables and lengths -/

/-- R142, R143: SR_TO_HZ; 0 for every index above 20. -/
def Obligations.SrToHzFollowsItsRule : Prop :=
  decode 0x16 = .ok .srToHz ∧
  ∀ s : State,
    let i := s.opa.val.toNat
    exec .srToHz s = .next { s with
      status := .of 0, res0 := .of (BitVec.ofNat 32 (if i ≤ 20 then rates.getD i 0 else 0)) }

/-- R144: HZ_TO_SR; the one index whose rate it is, or the parameter SR_NOT_FOUND. -/
def Obligations.HzToSrFollowsItsRule : Prop :=
  decode 0x17 = .ok .hzToSr ∧
  (∀ (s : State) (i : Nat), rates[i]? = some s.opa.val.toNat →
    exec .hzToSr s = .next { s with status := .of 0, res0 := .of (BitVec.ofNat 32 i) }) ∧
  (∀ s : State, s.opa.val.toNat ∉ rates → exec .hzToSr s = .next { s with status := .of 0, res0 := .of s.params.srNotFound })

/-- R145: DT_SIZE; 0 for every id above 7. -/
def Obligations.DtSizeFollowsItsRule : Prop :=
  decode 0x18 = .ok .dtSize ∧
  ∀ s : State,
    exec .dtSize s = .next { s with status := .of 0, res0 := .of (BitVec.ofNat 32 (sizeOfType s.opa.val.toNat)) }

/-- R147, R138: EXPECT_LEN. What an unwritten register holds is
read on with (the model's choice, log entry 2); strictStep stops there. -/
def Obligations.ExpectLenFollowsItsRule : Prop :=
  decode 0x19 = .ok .expectLen ∧
  ∀ s : State,
    let e := expectedLen s.hdr.nbs.val s.hdr.nbc.val s.hdr.fmt.val
    exec .expectLen s = .next { s with
      status := .of 0, res0 := .of (BitVec.ofNat 32 e), res1 := .of (if s.hdr.plen.val.toNat = e then 0 else 1) }

/-- R139, R138, R147: the expected length EXPECT_LEN answers is the exact product, at most 524288, and 0 exactly for data
types 6 and 7. What an unwritten register holds is read on with (the model's choice, log entry 2); strictStep stops
there. -/
def Obligations.ExpectedLengthIsExactAndBounded : Prop :=
  ∀ s : State, ∃ t, exec .expectLen s = .next t ∧
    t.res0.val.toNat = (s.hdr.nbs.val.toNat + 1) * (s.hdr.nbc.val.toNat + 1) * sizeOfType (s.hdr.fmt.val.toNat % 8) ∧
    t.res0.val.toNat ≤ 524288 ∧
    (t.res0.val.toNat = 0 ↔ s.hdr.fmt.val.toNat % 8 = 6 ∨ s.hdr.fmt.val.toNat % 8 = 7)

/-! ### Decode, encode, classify -/

/-- R140, R131: HDR_DECODE, its three failures in the order of its pseudocode and its effect. -/
def Obligations.HdrDecodeFollowsItsRule : Prop :=
  decode 0x10 = .ok .hdrDecode ∧
  ∀ s : State,
    let len := s.opa.val.toNat
    exec .hdrDecode s =
      if 1464 < len then .next { s with status := .of 1 }
      else if len < 28 then .next { s with status := .of 5 }
      else if wireMagic s.pkt ≠ s.params.magic.toNat then .next { s with status := .of 6 }
      else .next { s with
        status := .of 0, hdr := wireHeader s.pkt len, res0 := .of 28, res1 := .of (BitVec.ofNat 32 (len - 28)) }

/-- R141, R137, R90: HDR_ENCODE; the 28 bytes of PKT one by one, every other byte as before, and its failure. What
an unwritten register holds is read on with (the model's choice, log entry 2); strictStep stops there. -/
def Obligations.HdrEncodeFollowsItsRule : Prop :=
  decode 0x11 = .ok .hdrEncode ∧
  ∀ s : State,
    let plen := s.opa.val.toNat
    if 1436 < plen then exec .hdrEncode s = .next { s with status := .of 7 }
    else ∃ t, exec .hdrEncode s = .next t ∧
      t = { s with
        status := .of 0, pkt := t.pkt, hdr := { s.hdr with plen := .of (BitVec.ofNat 32 plen) },
        res0 := .of (BitVec.ofNat 32 (28 + plen)) } ∧
      (∀ i < 4, (t.pkt.read i).toNat = s.params.magic.toNat / 256 ^ i % 256) ∧
      t.pkt.read 4 = s.hdr.srsp.val ∧ t.pkt.read 5 = s.hdr.nbs.val ∧ t.pkt.read 6 = s.hdr.nbc.val ∧
      t.pkt.read 7 = s.hdr.fmt.val ∧
      (∀ i : Fin 16, t.pkt.read (8 + i.val) = s.hdr.name[i].val) ∧
      (∀ i < 4, (t.pkt.read (24 + i)).toNat = s.hdr.frame.val.toNat / 256 ^ i % 256) ∧
      ∀ a, 28 ≤ a → t.pkt.read a = s.pkt.read a

/-- R146, the round-trip law, both ways: decoding an encoded header gives the header registers back and leaves the
payload; encoding a decoded packet rewrites the bytes it held. R146 speaks of states in which HDR_ENCODE finishes OK; here
it does from every state with a legal length, because an unwritten header register is read on with (the model's choice,
log entry 2). -/
def Obligations.EncodeAndDecodeRoundTrip : Prop :=
  (∀ s : State, s.opa.val.toNat ≤ 1436 →
    ∃ t u, exec .hdrEncode s = .next t ∧
      exec .hdrDecode { t with opa := .of (BitVec.ofNat 32 (28 + s.opa.val.toNat)) } = .next u ∧
      u.status.val = 0 ∧ u.hdr.srsp.val = s.hdr.srsp.val ∧ u.hdr.nbs.val = s.hdr.nbs.val ∧
      u.hdr.nbc.val = s.hdr.nbc.val ∧ u.hdr.fmt.val = s.hdr.fmt.val ∧
      (∀ i : Fin 16, u.hdr.name[i].val = s.hdr.name[i].val) ∧ u.hdr.frame.val = s.hdr.frame.val ∧
      u.hdr.plen.val = s.opa.val ∧ ∀ a, 28 ≤ a → u.pkt.read a = s.pkt.read a) ∧
  (∀ s t : State, exec .hdrDecode s = .next t → t.status.val = 0 →
    ∃ u, exec .hdrEncode { t with opa := .of (BitVec.ofNat 32 (s.opa.val.toNat - 28)) } = .next u ∧
      u.status.val = 0 ∧ ∀ a, u.pkt.read a = s.pkt.read a)

/-- R149, R148: RX_CLASSIFY, its failures, the early verdicts that leave the header registers alone, and the filters in
the source's order with the expected length and the mismatch flag. -/
def Obligations.RxClassifyFollowsItsRule : Prop :=
  decode 0x1A = .ok .rxClassify ∧
  ∀ s : State,
    let len := s.opa.val.toNat
    let e := expectedLen (s.pkt.read 5) (s.pkt.read 6) (s.pkt.read 7)
    exec .rxClassify s =
      if 1464 < len ∨ s.expName[15] ≠ 0 then .next { s with status := .of 1 }
      else if len < 28 then .next { s with status := .of 0, res0 := .of 1, res1 := .of 0, res2 := .of 0 }
      else if wireMagic s.pkt ≠ s.params.magic.toNat then
        .next { s with status := .of 0, res0 := .of 2, res1 := .of 0, res2 := .of 0 }
      else .next { s with
        status := .of 0, hdr := wireHeader s.pkt len,
        res0 := .of (
          if s.expName[0] ≠ 0 ∧ ∃ i : Fin 16, s.pkt.read (8 + i.val) ≠ s.expName[i] then 3
          else if (s.pkt.read 4).toNat / 32 ≠ 0 then 4
          else if (s.pkt.read 7).toNat / 16 ≠ 0 then 5
          else 0),
        res1 := .of (BitVec.ofNat 32 e), res2 := .of (if len - 28 = e then 0 else 1) }

/-- R151: RX_CLASSIFY and HDR_DECODE agree: DROP_SHORT exactly when the decode would fail PacketTooShort, DROP_MAGIC
exactly when it would fail InvalidMagic, and otherwise the same header register writes. -/
def Obligations.ClassifyAgreesWithDecode : Prop :=
  ∀ s : State, s.opa.val.toNat ≤ 1464 → s.expName[15] = 0 →
    ∃ t u, exec .rxClassify s = .next t ∧ exec .hdrDecode s = .next u ∧ t.status.val = 0 ∧
      (t.res0.val = 1 ↔ u.status.val = 5) ∧ (t.res0.val = 2 ↔ u.status.val = 6) ∧
      (t.res0.val ≠ 1 → t.res0.val ≠ 2 → u.status.val = 0 ∧ t.hdr = u.hdr)

/-- R150: a packet whose stream name has a non-zero sixteenth byte is dropped by name whenever an expected name is
configured. -/
def Obligations.SixteenByteNameNeverMatches : Prop :=
  ∀ s : State, 28 ≤ s.opa.val.toNat → s.opa.val.toNat ≤ 1464 → s.expName[15] = 0 → s.expName[0] ≠ 0 →
    wireMagic s.pkt = s.params.magic.toNat → s.pkt.read 23 ≠ 0 →
    ∃ t, exec .rxClassify s = .next t ∧ t.status.val = 0 ∧ t.res0.val = 3

/-! ### The ring -/

/-- R201: RB_INIT; its two failures, and the ring emptied with every byte of live storage drawn again. That a draw is a
free value of its own, numbered by the counter the command moves on (log entries 3 and 4), and that RING from 2·cap on
stays as it was (log entry 18) are the model's. -/
def Obligations.RbInitFollowsItsRule : Prop :=
  decode 0x20 = .ok .rbInit ∧
  ∀ s : State,
    let cap := s.opa.val.toNat
    if cap = 0 then exec .rbInit s = .next { s with status := .of 1 }
    else if s.params.capMax.toNat < cap then exec .rbInit s = .next { s with status := .of 2 }
    else ∃ t, exec .rbInit s = .next t ∧
      t = { s with
        status := .of 0, rb := { cap := s.opa.val, head := 0, tail := 0, count := 0 }, ring := t.ring,
        nextDraw := s.nextDraw + 1 } ∧
      (∀ a < 2 * cap, t.ring.read a = Config.drawnByte s.nextDraw a) ∧
      ∀ a, 2 * cap ≤ a → t.ring.read a = s.ring.read a

/-- R202: RB_DEINIT zeroes the ring registers; on an uninitialised ring only STATUS changes; after it the
queries answer their uninitialised defaults and every read of RING is a bus fault. -/
def Obligations.RbDeinitFollowsItsRule : Prop :=
  decode 0x21 = .ok .rbDeinit ∧
  ∀ s : State, ∃ t, exec .rbDeinit s = .next t ∧
    t = { s with status := .of 0, rb := { cap := 0, head := 0, tail := 0, count := 0 } } ∧
    (s.rb = { cap := 0, head := 0, tail := 0, count := 0 } → t = { s with status := .of 0 }) ∧
    exec .rbCount t = .next { t with status := .of 0, res0 := .of 0 } ∧
    exec .rbCapacity t = .next { t with status := .of 0, res0 := .of 0 } ∧
    exec .rbFree t = .next { t with status := .of 0, res0 := .of 0 } ∧
    exec .rbEmpty t = .next { t with status := .of 0, res0 := .of 1 } ∧
    exec .rbFull t = .next { t with status := .of 0, res0 := .of 0 } ∧
    ∀ (who : Agent) (addr : Word) (n : Nat) (rest : List HostEvent), 0x10000 ≤ (addr - s.params.base).toNat →
      step { t with bus := .access who (.read addr n) :: rest } =
        .fault (.busFault who (addr - s.params.base).toNat n .read)

/-- R203: RB_WRITE; its no-op, its two failures in order, and the split write with its mirror, byte by byte, every
other byte of RING as before. -/
def Obligations.RbWriteFollowsItsRule : Prop :=
  decode 0x22 = .ok .rbWrite ∧
  ∀ s : State,
    let src := s.opa.val.toNat
    let len := s.opb.val.toNat
    let c := s.rb.cap.toNat
    let h := s.rb.head.toNat
    let seg1 := min len (c - h)
    let seg2 := len - seg1
    if len = 0 then exec .rbWrite s = .next { s with status := .of 0 }
    else if 1464 < src + len then exec .rbWrite s = .next { s with status := .of 1 }
    else if c - s.rb.count.toNat < len then exec .rbWrite s = .next { s with status := .of 3 }
    else ∃ t, exec .rbWrite s = .next t ∧
      t = { s with
        status := .of 0, ring := t.ring,
        rb := { s.rb with head := BitVec.ofNat 32 ((h + len) % c), count := BitVec.ofNat 32 (s.rb.count.toNat + len) } } ∧
      (∀ i < seg1, t.ring.read (h + i) = s.pkt.read (src + i) ∧ t.ring.read (h + i + c) = s.pkt.read (src + i)) ∧
      (∀ i < seg2, t.ring.read i = s.pkt.read (src + seg1 + i) ∧ t.ring.read (i + c) = s.pkt.read (src + seg1 + i)) ∧
      ∀ a, (∀ i < seg1, a ≠ h + i ∧ a ≠ h + i + c) → (∀ i < seg2, a ≠ i ∧ a ≠ i + c) → t.ring.read a = s.ring.read a

/-- R204, the region-split law: a successful RB_WRITE of len > 0 stores byte i at (h + i) mod C and its mirror, inside
live storage, its four destination ranges lie in [0, h), [h, C), [C, C + h) and [C + h, 2C) and so are disjoint
(h + seg1 ≤ C, seg2 ≤ h), and it overwrites no stored byte. -/
def Obligations.RbWriteIsTheModularMirroredWrite : Prop :=
  ∀ s : State, Inv s →
    let src := s.opa.val.toNat
    let len := s.opb.val.toNat
    let c := s.rb.cap.toNat
    let h := s.rb.head.toNat
    0 < len → src + len ≤ 1464 → len ≤ c - s.rb.count.toNat →
    h + min len (c - h) ≤ c ∧ len - min len (c - h) ≤ h ∧
    (∀ i < len, (h + i) % c + c < 2 * c ∧ ∀ j < s.rb.count.toNat, (h + i) % c ≠ (s.rb.tail.toNat + j) % c) ∧
    ∃ t, exec .rbWrite s = .next t ∧ t.status.val = 0 ∧
      (∀ i < len, t.ring.read ((h + i) % c) = s.pkt.read (src + i) ∧ t.ring.read ((h + i) % c + c) = s.pkt.read (src + i)) ∧
      (∀ a, (∀ i < len, a ≠ (h + i) % c ∧ a ≠ (h + i) % c + c) → t.ring.read a = s.ring.read a) ∧
      ∀ j < s.rb.count.toNat, t.ring.read ((s.rb.tail.toNat + j) % c) = s.ring.read ((s.rb.tail.toNat + j) % c)

/-- R205: RB_REGION. -/
def Obligations.RbRegionFollowsItsRule : Prop :=
  decode 0x23 = .ok .rbRegion ∧
  ∀ s : State,
    exec .rbRegion s =
      if s.rb.cap = 0 ∨ s.rb.count = 0 then .next { s with status := .of 0, res0 := .of 0, res1 := .of 0, res2 := .of 0 }
      else .next { s with status := .of 0, res0 := .of s.rb.tail, res1 := .of s.rb.count, res2 := .of 1 }

/-- R206, the contiguity law: the region RB_REGION returns lies in live storage, RING[t + j] is RING[(t + j) mod C], and
it holds the j-th stored byte, oldest first; it is at least a chunk long whenever RB_COUNT is. -/
def Obligations.RegionIsContiguousOldestFirst : Prop :=
  ∀ (s : State) (h : History), Inv s → HoldsHistory s h → s.rb.count ≠ 0 →
    ∃ t, exec .rbRegion s = .next t ∧ t.res2.val = 1 ∧ t.res1.val = s.rb.count ∧
      t.res0.val.toNat + t.res1.val.toNat ≤ (s.rb.cap.toNat - 1) + s.rb.cap.toNat ∧
      ∀ j < t.res1.val.toNat,
        t.ring.read (t.res0.val.toNat + j) = t.ring.read ((t.res0.val.toNat + j) % s.rb.cap.toNat) ∧
        h.written[h.consumed + j]? = some (t.ring.read (t.res0.val.toNat + j))

/-- R207: RB_CONSUME; its no-op, its failure, and the tail and count moved, RING and RB_HEAD as before. -/
def Obligations.RbConsumeFollowsItsRule : Prop :=
  decode 0x24 = .ok .rbConsume ∧
  ∀ s : State,
    let n := s.opa.val.toNat
    exec .rbConsume s =
      if n = 0 then .next { s with status := .of 0 }
      else if s.rb.count.toNat < n then .next { s with status := .of 4 }
      else .next { s with
        status := .of 0,
        rb := { s.rb with
          tail := BitVec.ofNat 32 ((s.rb.tail.toNat + n) % s.rb.cap.toNat),
          count := BitVec.ofNat 32 (s.rb.count.toNat - n) } }

/-- R209–R213: RB_COUNT, RB_CAPACITY, RB_FREE, RB_EMPTY and RB_FULL write RES0 and STATUS only. -/
def Obligations.RingQueriesFollowTheirRules : Prop :=
  decode 0x25 = .ok .rbCount ∧ decode 0x26 = .ok .rbCapacity ∧ decode 0x27 = .ok .rbFree ∧ decode 0x28 = .ok .rbEmpty ∧
  decode 0x29 = .ok .rbFull ∧
  ∀ s : State,
    exec .rbCount s = .next { s with status := .of 0, res0 := .of s.rb.count } ∧
    exec .rbCapacity s = .next { s with status := .of 0, res0 := .of s.rb.cap } ∧
    exec .rbFree s = .next { s with status := .of 0, res0 := .of (BitVec.ofNat 32 (s.rb.cap.toNat - s.rb.count.toNat)) } ∧
    exec .rbEmpty s = .next { s with status := .of 0, res0 := .of (if s.rb.count.toNat = 0 then 1 else 0) } ∧
    exec .rbFull s = .next { s with
      status := .of 0, res0 := .of (if 0 < s.rb.cap.toNat ∧ s.rb.count.toNat = s.rb.cap.toNat then 1 else 0) }

/-- R215: what each ring command does on an uninitialised ring. -/
def Obligations.UninitialisedRingOutcomes : Prop :=
  ∀ s : State, s.rb = { cap := 0, head := 0, tail := 0, count := 0 } →
    (0 < s.opa.val.toNat → s.opa.val.toNat ≤ s.params.capMax.toNat →
      ∃ t, exec .rbInit s = .next t ∧ t.status.val = 0 ∧ t.rb.cap = s.opa.val) ∧
    exec .rbDeinit s = .next { s with status := .of 0 } ∧
    exec .rbWrite s = .next { s with
      status := .of (if s.opb.val.toNat = 0 then 0 else if 1464 < s.opa.val.toNat + s.opb.val.toNat then 1 else 3) } ∧
    exec .rbConsume s = .next { s with status := .of (if s.opa.val.toNat = 0 then 0 else 4) } ∧
    exec .rbRegion s = .next { s with status := .of 0, res0 := .of 0, res1 := .of 0, res2 := .of 0 } ∧
    exec .rbCount s = .next { s with status := .of 0, res0 := .of 0 } ∧
    exec .rbCapacity s = .next { s with status := .of 0, res0 := .of 0 } ∧
    exec .rbFree s = .next { s with status := .of 0, res0 := .of 0 } ∧
    exec .rbEmpty s = .next { s with status := .of 0, res0 := .of 1 } ∧
    exec .rbFull s = .next { s with status := .of 0, res0 := .of 0 }

/-- R214: every ring command preserves the invariant of R33; a successful RB_INIT and RB_DEINIT establish it from any
ring registers; a failure or a query changes nothing of the ring. -/
def Obligations.RingCommandsPreserveTheRingInvariant : Prop :=
  ∀ (s t : State) (i : Instr), i ∈ ringCommands → paramsWf s.params = true → exec i s = .next t →
    (ringRegsInv s.params s.rb → ringRegsInv t.params t.rb) ∧
    (i = .rbDeinit ∨ i = .rbInit ∧ t.status.val = 0 → ringRegsInv t.params t.rb) ∧
    (t.status.val ≠ 0 ∨ i ∉ [Instr.rbInit, .rbDeinit, .rbWrite, .rbConsume] →
      t.rb = s.rb ∧ ∀ a, t.ring.read a = s.ring.read a)

/-- R294: with C ≥ 1436 + k − 1 and fewer than k bytes stored, no payload of a legal size is refused for want of space;
with C = 1436 a full-size payload fits exactly when the ring is empty. -/
def Obligations.EnoughCapacityNeverDropsAPayload : Prop :=
  (∀ (s : State) (k : Nat), Inv s → 1 ≤ k → 1436 + k - 1 ≤ s.rb.cap.toNat → s.rb.count.toNat < k →
    s.opb.val.toNat ≤ 1436 → s.opa.val.toNat + s.opb.val.toNat ≤ 1464 →
    ∃ t, exec .rbWrite s = .next t ∧ t.status.val = 0) ∧
  (∀ s : State, Inv s → s.rb.cap.toNat = 1436 → s.opb.val.toNat = 1436 → s.opa.val.toNat ≤ 28 →
    ∃ t, exec .rbWrite s = .next t ∧ (t.status.val = 0 ↔ s.rb.count = 0) ∧ (t.status.val = 3 ↔ s.rb.count ≠ 0))

/-- R293, R294: with a chunk size k of at least 1, the drain loop of the host receive procedure hands off every whole
chunk stored, oldest first, each contiguous in live storage and holding its k bytes, leaves fewer than k bytes, and
changes no byte of RING. The loop is the host's program as Sys2Proof/Machine/Receive.lean writes it, with a bound on its
rounds: the model's (log entry 25). -/
def Obligations.DrainLoopHandsOffEveryWholeChunk : Prop :=
  ∀ (s : State) (h : History) (k : Word), Inv s → HoldsHistory s h → 1 ≤ k.toNat →
    let n := s.rb.count.toNat / k.toNat
    let r := drainLoop k (s.rb.count.toNat + 1) s
    r.1.rb.count.toNat = s.rb.count.toNat % k.toNat ∧
    HoldsHistory r.1 { h with consumed := h.consumed + n * k.toNat } ∧
    (∀ a, r.1.ring.read a = s.ring.read a) ∧ r.2.length = n ∧
    ∀ i < n, ∃ off, r.2[i]? = some (off, k.toNat) ∧ off + k.toNat ≤ 2 * s.rb.cap.toNat ∧
      r.1.ring.readRun off k.toNat = (h.written.drop (h.consumed + i * k.toNat)).take k.toNat

/-- R311: a chunk of k bytes just consumed, at t = (bytes consumed before it) mod C, keeps byte j while at most F − k + j
bytes are written after it, whatever else runs, and is overwritten by the byte that passes that number, as long as
no RB_INIT, RB_DEINIT or reset comes between. W is the number of bytes written since. -/
def Obligations.ChunkLivesUntilOverwritten : Prop :=
  ∀ (n : Nat) (s t : State) (h : History) (k j : Nat), Inv s → HoldsHistory s h → s.rb.cap ≠ 0 →
    Host.Core.run Sys2Proof.core n s = .next t → (historyRun n s h).epoch = h.epoch →
    k ≤ h.consumed → s.rb.count.toNat + k ≤ s.rb.cap.toNat → j < k →
    let c := s.rb.cap.toNat
    let free := c - s.rb.count.toNat
    let off := (h.consumed - k) % c
    let w := (historyRun n s h).written.length - h.written.length
    (w + k ≤ free + j → t.ring.read (off + j) = s.ring.read (off + j)) ∧
    (free + j < w + k → w + k ≤ free + j + c →
      (historyRun n s h).written[h.written.length + (free + j - k)]? = some (t.ring.read (off + j)))

/-- R206, R310, R73: the consumer's one-byte read inside a chunk handed to it returns the chunk's byte while the byte is
not overwritten, and the checked step stops with ChunkOverwritten when it is (the optional host fault of D34, log
entry 14). -/
def Obligations.ConsumerReadsItsChunkOrFaults : Prop :=
  ∀ (s : State) (h : History) (c : Chunk) (j : Nat) (addr : Word) (rest : List HostEvent), Inv s → HoldsHistory s h →
    s.rb.cap ≠ 0 → c.len ≤ s.rb.cap.toNat → c.off = c.start % s.rb.cap.toNat → j < c.len →
    (c.epoch = h.epoch → c.start + c.len ≤ h.written.length) →
    s.bus = .access .consumer (.read addr 1) :: rest → (addr - s.params.base).toNat = 0x10000 + c.off + j →
    if c.epoch = h.epoch ∧ h.written.length ≤ c.start + j + s.rb.cap.toNat then
      ∃ b, h.written[c.start + j]? = some b ∧
        checkedStep h [c] s = .next { s with
          bus := rest, replies := { who := .consumer, addr := addr, n := 1, val := b.setWidth 32 } :: s.replies }
    else checkedStep h [c] s = .fault (.chunkOverwritten (c.off + j))

/-! ### The bus -/

/-- R66, R68, R69: a host read answers exactly at the mapped, readable offsets with the width of their row, with the
value of the register or byte busTarget names there, and then changes nothing but the answer it returns; anywhere else it
is a bus fault. That a read of an unwritten register answers too is the model's choice (log entry 2; strictStep stops
there), a byte is zero-extended (log entry 11), and the list of answers is the model's record (log entry 10). -/
def Obligations.HostReadAnswersOrFaults : Prop :=
  ∀ (s : State) (who : Agent) (addr : Word) (n : Nat) (rest : List HostEvent),
    s.bus = .access who (.read addr n) :: rest →
    let off := (addr - s.params.base).toNat
    if n = 4 ∧ off % 4 = 0 ∧ (0x4 ≤ off ∧ off < 0x38 ∨ 0x60 ≤ off ∧ off < 0x78) ∨
        n = 1 ∧ (0x40 ≤ off ∧ off < 0x60 ∨ 0x1000 ≤ off ∧ off < 0x15B8 ∨
          0x10000 ≤ off ∧ off < 0x10000 + 2 * min s.rb.cap.toNat s.params.capMax.toNat) then
      ∃ tg v, busTarget s.params off n = some tg ∧ ReadAnswers s v tg ∧ step s = .next { s with
        bus := rest, replies := { who := who, addr := addr, n := n, val := v } :: s.replies }
    else step s = .fault (.busFault who off n .read)

/-- R66, R68, R69: a host write is taken exactly at CMD and the writable registers and bytes with the width of their
row; a write elsewhere is a bus fault; a write other than CMD's stores its value at the register or byte busTarget names
there and changes nothing else. That a one-byte write stores bits [7:0] of its value in a byte of HDR_NAME, CFG_EXPNAME or
PKT is log entry 11. -/
def Obligations.HostWriteIsTakenOrFaults : Prop :=
  ∀ (s : State) (who : Agent) (addr : Word) (n : Nat) (v : Word) (rest : List HostEvent),
    s.bus = .access who (.write addr n v) :: rest →
    let off := (addr - s.params.base).toNat
    if n = 4 ∧ off % 4 = 0 ∧ (off < 0x10 ∨ 0x20 ≤ off ∧ off < 0x34) ∨
        n = 1 ∧ (0x40 ≤ off ∧ off < 0x60 ∨ 0x1000 ≤ off ∧ off < 0x15B8) then
      ∃ t tg, step s = .next t ∧ busTarget s.params off n = some tg ∧ (tg = .cmd ↔ off = 0) ∧
        (tg ≠ .cmd → WriteLeaves { s with bus := rest } t v tg)
    else step s = .fault (.busFault who off n .write)

/-- R71: a read right after a write of the same register or byte, by either agent, returns the value written: OPA to OPC
and HDR_FRAME whole (R23, R30), the byte registers of the header with bits [7:0] kept (R69, R26–R28). That the byte arrays
keep bits [7:0] of a wider value, and read zero-extended, is the model's (log entry 11). -/
def Obligations.ReadAfterWriteReturnsTheValue : Prop :=
  ∀ (s : State) (w r : Agent) (addr : Word) (n : Nat) (v : Word) (rest : List HostEvent),
    s.bus = .access w (.write addr n v) :: .access r (.read addr n) :: rest →
    let off := (addr - s.params.base).toNat
    n = 4 ∧ off % 4 = 0 ∧ (0x4 ≤ off ∧ off < 0x10 ∨ 0x20 ≤ off ∧ off < 0x34) ∨
      n = 1 ∧ (0x40 ≤ off ∧ off < 0x60 ∨ 0x1000 ≤ off ∧ off < 0x15B8) →
    ∃ t, Host.Core.run Sys2Proof.core 2 s = .next t ∧ t.bus = rest ∧
      t.replies = {
        who := r, addr := addr, n := n,
        val := if n = 1 ∨ 0x20 ≤ off ∧ off < 0x30 then BitVec.ofNat 32 (v.toNat % 256) else v } :: s.replies

/-- R63, R22–R34: what a read of each word register's offset returns, byte registers with bits [31:8] zero. That a read of
an unwritten register answers what it holds is the model's choice (log entry 2); strictStep stops there. -/
def Obligations.WordRegistersReadAtTheirOffsets : Prop :=
  ∀ (s : State) (who : Agent) (rest : List HostEvent) (off : Nat) (v : Word),
    (off, v) ∈ [(0x04, s.opa.val), (0x08, s.opb.val), (0x0C, s.opc.val),
      (0x10, BitVec.ofNat 32 s.status.val.toNat), (0x14, s.res0.val), (0x18, s.res1.val), (0x1C, s.res2.val),
      (0x20, BitVec.ofNat 32 s.hdr.srsp.val.toNat), (0x24, BitVec.ofNat 32 s.hdr.nbs.val.toNat),
      (0x28, BitVec.ofNat 32 s.hdr.nbc.val.toNat), (0x2C, BitVec.ofNat 32 s.hdr.fmt.val.toNat),
      (0x30, s.hdr.frame.val), (0x34, s.hdr.plen.val), (0x60, s.rb.cap), (0x64, s.rb.head), (0x68, s.rb.tail),
      (0x6C, s.rb.count), (0x70, s.params.capMax), (0x74, s.params.magic)] →
    s.bus = .access who (.read (s.params.base + BitVec.ofNat 32 off) 4) :: rest →
    step s = .next { s with
      bus := rest,
      replies := { who := who, addr := s.params.base + BitVec.ofNat 32 off, n := 4, val := v } :: s.replies }

/-- R106: each pseudo-instruction is its expansion: its bus accesses, run in order, run its command with the operand
registers set, and leave them holding the values it set. An unwritten header register its command reads is read on with
(the model's choice, log entry 2). -/
def Obligations.PseudoInstructionsRunTheirCommand : Prop :=
  ∀ (p : Pseudo) (s : State),
    Host.Core.run Sys2Proof.core (scriptEvents s.params (expandPseudo p)).length (loadScript s (expandPseudo p)) =
      exec (pseudoInstr p) (pseudoOperands s p) ∧
    ∀ t, exec (pseudoInstr p) (pseudoOperands s p) = .next t →
      t.opa = (pseudoOperands s p).opa ∧ t.opb = (pseudoOperands s p).opb ∧ t.opc = (pseudoOperands s p).opc

/-- R63, R69: what a read of each byte row returns: the byte of HDR_NAME, CFG_EXPNAME, PKT or live RING at that index,
zero-extended (log entry 11), an unwritten byte of HDR_NAME too (log entry 2). An offset of RING past 2^32 has no address
(log entry 8). -/
def Obligations.ByteRowsReadAtTheirOffsets : Prop :=
  ∀ (s : State) (who : Agent) (rest : List HostEvent) (off : Nat) (b : Byte),
    s.bus = .access who (.read (s.params.base + BitVec.ofNat 32 off) 1) :: rest →
    (∃ i : Fin 16, off = 0x40 + i.val ∧ b = s.hdr.name[i].val) ∨ (∃ i : Fin 16, off = 0x50 + i.val ∧ b = s.expName[i]) ∨
      (∃ a < 1464, off = 0x1000 + a ∧ b = s.pkt.read a) ∨
      (∃ a < 2 * s.rb.cap.toNat, a < 2 * s.params.capMax.toNat ∧ 0x10000 + a < 2 ^ 32 ∧ off = 0x10000 + a ∧
        b = s.ring.read a) →
    step s = .next { s with
      bus := rest,
      replies := {
        who := who, addr := s.params.base + BitVec.ofNat 32 off, n := 1, val := BitVec.ofNat 32 b.toNat } :: s.replies }

/-- R37, R264 (a), R265: from every state, the strict step on a host event that reads an unwritten register or byte stops
with ReadUnwritten naming the first one it reads, before any status or bus fault of its own; on every other event it is
step. That step itself goes on, and that operands are read at the start, is log entry 2. -/
def Obligations.StrictStepStopsAtTheFirstUnwrittenRead : Prop :=
  ∀ (s : State) (e : HostEvent) (rest : List HostEvent), s.bus = e :: rest →
    (∀ (before after : List Target) (t : Target), ruleEventReads s e = before ++ t :: after →
      (∀ x ∈ before, ¬ NoValueYet s x) → NoValueYet s t → strictStep s = .fault (.readUnwritten t)) ∧
    ((∀ x ∈ ruleEventReads s e, ¬ NoValueYet s x) → strictStep s = checked (step s))

/-- R63, R66: the address map: which register or byte an access of n bytes at an offset names, row by row, and nothing at
any other offset or width. -/
def Obligations.AddressMapNamesItsRows : Prop :=
  ∀ (p : Config.Params) (off n : Nat) (t : Target), busTarget p off n = some t ↔
    match t with
    | .cmd => n = 4 ∧ off = 0
    | .reg r => n = 4 ∧ (off, r) ∈ wordRows
    | .hdrName i => n = 1 ∧ off = 0x40 + i.val
    | .expName i => n = 1 ∧ off = 0x50 + i.val
    | .pkt a => n = 1 ∧ a < 1464 ∧ off = 0x1000 + a
    | .ring a => n = 1 ∧ a < 2 * p.capMax.toNat ∧ off = 0x10000 + a
end

