-- ==== Sys2Proof/Laws/Decode.lean ====
section
/-! SUPPORT. What the decoder and the encoder do, said once. -/

namespace Sys2Proof

theorem mbzField_eq_zero {w : Word} : mbzField w = 0 ↔ w.toNat < 256 := by
  simp only [mbzField]; omega

/-- A word decodes to a command exactly when its upper bits are zero and its OP is that command's (R104). -/
theorem decode_ok_iff (w : Word) (i : Instr) : decode w = .ok i ↔ w.toNat < 256 ∧ decodeOp w.toNat = some i := by
  unfold decode
  by_cases h : mbzField w = 0
  · have hw := mbzField_eq_zero.1 h
    have hop : opField w = w.toNat := Nat.mod_eq_of_lt hw
    simp only [h, ne_eq, not_true_eq_false, if_false, hop]
    cases hd : decodeOp w.toNat <;> simp [hw]
  · have hw : ¬ w.toNat < 256 := fun hw => h (mbzField_eq_zero.2 hw)
    simp [h, hw]

theorem encode_toNat (i : Instr) : (encode i).toNat = (opcode i).toNat := by cases i <;> rfl

end Sys2Proof
end

