-- ==== Sys2Proof/Laws/Ops.lean ====
section
/-! SUPPORT. What each shared operation of Sys2Proof/Machine/Ops.lean does, said once: the bytes a memory write leaves,
the canonical form it keeps, and how a command ends. -/

namespace Sys2Proof.Machine

/-! ### The cell list -/

theorem lookupCell_append (xs ys : List Host.Cell) (a : Nat) :
    lookupCell (xs ++ ys) a = (lookupCell xs a).or (lookupCell ys a) := by
  induction xs with
  | nil => simp [lookupCell]
  | cons c cs ih => by_cases h : c.1 = a <;> simp [lookupCell, h, ih]

theorem lookupCell_filter (p : Nat → Bool) (xs : List Host.Cell) (a : Nat) :
    lookupCell (xs.filter fun c => p c.1) a = if p a then lookupCell xs a else none := by
  induction xs with
  | nil => simp [lookupCell]
  | cons c cs ih =>
    by_cases hc : p c.1 = true
    · by_cases h : c.1 = a
      · subst h; simp [lookupCell, hc]
      · simp [lookupCell, hc, h, ih]
    · by_cases h : c.1 = a
      · subst h; simp [hc, ih]
      · simp [lookupCell, hc, h, ih]

theorem lookupCell_cellsFrom (bs : List Byte) (a x : Nat) :
    lookupCell (cellsFrom a bs) x = if a ≤ x then bs[x - a]? else none := by
  induction bs generalizing a with
  | nil => simp [cellsFrom, lookupCell]
  | cons b bs ih =>
    simp only [cellsFrom, lookupCell, ih]
    by_cases h : a = x
    · subst h; simp
    · by_cases hle : a ≤ x
      · obtain ⟨k, rfl⟩ : ∃ k, x = a + 1 + k := ⟨x - (a + 1), by omega⟩
        simp [h, show a + 1 + k - a = k + 1 by omega]
        omega
      · simp [h, hle, show ¬ a + 1 ≤ x by omega]

theorem cellsFrom_keys (bs : List Byte) (a : Nat) (c : Host.Cell) (h : c ∈ cellsFrom a bs) :
    a ≤ c.1 ∧ c.1 < a + bs.length := by
  induction bs generalizing a with
  | nil => simp [cellsFrom] at h
  | cons b bs ih =>
    simp only [cellsFrom, List.mem_cons] at h
    rcases h with rfl | h
    · simp
    · have := ih (a + 1) h
      simp only [List.length_cons]
      omega

theorem cellsFrom_rising (bs : List Byte) (a : Nat) : (cellsFrom a bs).Pairwise (fun x y => x.1 < y.1) := by
  induction bs generalizing a with
  | nil => simp [cellsFrom]
  | cons b bs ih =>
    refine List.pairwise_cons.2 ⟨fun c hc => ?_, ih (a + 1)⟩
    have := (cellsFrom_keys bs (a + 1) c hc).1
    simp only
    omega

/-! ### Reads and writes of a memory -/

/-- Everything a run write does to the bytes: the run stands at its offsets, every other byte reads as before. -/
theorem Memory.read_writeRun (m : Memory) (a : Nat) (bs : List Byte) (x : Nat) :
    (m.writeRun a bs).read x = if h : a ≤ x ∧ x < a + bs.length then bs[x - a]'(by omega) else m.read x := by
  have h1 := lookupCell_filter (fun k => decide (k < a)) m.cells x
  have h2 := lookupCell_filter (fun k => decide (a + bs.length ≤ k)) m.cells x
  simp only [Memory.read, Memory.writeRun, lookupCell_append, h1, h2, lookupCell_cellsFrom]
  by_cases hlo : a ≤ x
  · by_cases hhi : x < a + bs.length
    · have hx : x - a < bs.length := by omega
      simp [hlo, hhi, show ¬ x < a by omega, List.getElem?_eq_getElem hx]
    · have hx : bs.length ≤ x - a := by omega
      simp [hlo, hhi, show ¬ x < a by omega, show a + bs.length ≤ x by omega, List.getElem?_eq_none hx]
  · simp [hlo, show x < a by omega, show ¬ a + bs.length ≤ x by omega]

theorem Memory.read_writeRun_inside (m : Memory) (a : Nat) (bs : List Byte) (i : Nat) (h : i < bs.length) :
    (m.writeRun a bs).read (a + i) = bs[i] := by
  rw [Memory.read_writeRun, dif_pos (by omega)]
  simp

theorem Memory.read_writeRun_outside (m : Memory) (a : Nat) (bs : List Byte) (x : Nat)
    (h : x < a ∨ a + bs.length ≤ x) : (m.writeRun a bs).read x = m.read x := by
  rw [Memory.read_writeRun, dif_neg (by omega)]

/-- Everything a one-byte write does to the bytes. -/
theorem Memory.read_write (m : Memory) (a : Nat) (b : Byte) (x : Nat) :
    (m.write a b).read x = if x = a then b else m.read x := by
  rw [Memory.write, Memory.read_writeRun]
  by_cases h : x = a
  · subst h; simp
  · rw [dif_neg (by simp only [List.length_singleton]; omega), if_neg h]

@[simp] theorem Memory.writeRun_draw (m : Memory) (a : Nat) (bs : List Byte) : (m.writeRun a bs).draw = m.draw := rfl

@[simp] theorem Memory.readRun_length (m : Memory) (a n : Nat) : (m.readRun a n).length = n := by
  simp [Memory.readRun]

@[simp] theorem Memory.readRun_getElem (m : Memory) (a n i : Nat) (h : i < (m.readRun a n).length) :
    (m.readRun a n)[i] = m.read (a + i) := by
  simp [Memory.readRun]

@[simp] theorem drawRun_length (d n : Nat) : (drawRun d n).length = n := by simp [drawRun]

@[simp] theorem drawRun_getElem (d n i : Nat) (h : i < (drawRun d n).length) :
    (drawRun d n)[i] = Config.drawnByte d i := by
  simp [drawRun]

/-- A memory with nothing listed reads its draw at every offset (R38). -/
@[simp] theorem Memory.read_drawn (d a : Nat) : (Memory.drawn d).read a = Config.drawnByte d a := by
  simp [Memory.drawn, Memory.read, lookupCell]

/-! ### The canonical form -/

theorem Memory.wf_drawn (size d : Nat) : (Memory.drawn d).wf size := by
  simp [Memory.wf, Memory.drawn]

/-- A run write inside the memory keeps the canonical form. -/
theorem Memory.wf_writeRun {size : Nat} {m : Memory} (h : m.wf size) (a : Nat) (bs : List Byte)
    (hin : a + bs.length ≤ size) : (m.writeRun a bs).wf size := by
  obtain ⟨hp, hs⟩ := h
  refine ⟨?_, fun c hc => ?_⟩
  · refine List.pairwise_append.2 ⟨List.pairwise_append.2 ⟨hp.filter _, cellsFrom_rising bs a, ?_⟩, hp.filter _, ?_⟩
    · intro x hx y hy
      have hx' : x.1 < a := by simpa using (List.mem_filter.1 hx).2
      have := (cellsFrom_keys bs a y hy).1
      omega
    · intro x hx y hy
      have hy' : a + bs.length ≤ y.1 := by simpa using (List.mem_filter.1 hy).2
      rcases List.mem_append.1 hx with hx | hx
      · have : x.1 < a := by simpa using (List.mem_filter.1 hx).2
        omega
      · have := (cellsFrom_keys bs a x hx).2
        omega
  · simp only [Memory.writeRun, List.mem_append] at hc
    rcases hc with (hc | hc) | hc
    · exact hs c (List.mem_filter.1 hc).1
    · have := (cellsFrom_keys bs a c hc).2
      omega
    · exact hs c (List.mem_filter.1 hc).1

theorem Memory.wf_write {size : Nat} {m : Memory} (h : m.wf size) (a : Nat) (b : Byte) (hin : a < size) :
    (m.write a b).wf size :=
  Memory.wf_writeRun h a [b] (by simp only [List.length_singleton]; omega)

/-- Two writes of one run leave the memory of the second alone. -/
theorem Memory.read_writeRun_writeRun (m : Memory) (a : Nat) (bs bs' : List Byte) (hl : bs.length = bs'.length) (x : Nat) :
    ((m.writeRun a bs).writeRun a bs').read x = (m.writeRun a bs').read x := by
  by_cases h : a ≤ x ∧ x < a + bs'.length
  · rw [Memory.read_writeRun, dif_pos h, Memory.read_writeRun, dif_pos h]
  · rw [Memory.read_writeRun_outside _ _ _ _ (by omega), Memory.read_writeRun_outside _ _ _ _ (by omega),
      Memory.read_writeRun_outside _ _ _ _ (by omega)]

/-! ### How a command ends -/

/-- A command that finishes OK answers a next state, its own but for STATUS (R13). -/
theorem finishOk_eq (s : State) : finishOk s = .next { s with status := .of 0 } := rfl

/-- A command that fails answers a next state: the old one but for STATUS (R13). -/
theorem fail_eq (c : StatusCode) (s : State) : fail c s = .next { s with status := .of (statusNum c) } := rfl

theorem finishOk_next {s t : State} (h : finishOk s = .next t) : t = s.setStatus 0 := by
  injection h with h; exact h.symm

theorem fail_next {c : StatusCode} {s t : State} (h : fail c s = .next t) : t = s.setStatus (statusNum c) := by
  injection h with h; exact h.symm

theorem statusNum_le (c : StatusCode) : (statusNum c).toNat ≤ 8 := by cases c <;> decide

theorem statusNum_eq_zero {c : StatusCode} : statusNum c = 0 ↔ c = .ok := by cases c <;> decide

end Sys2Proof.Machine
end

