-- ==== Sys2Proof/Laws/State.lean ====
section
/-! SUPPORT. One lemma per field of State per update of Sys2Proof/Machine/Ops.lean, each true by rfl, so that no
proof unfolds a record update. -/

namespace Sys2Proof.Machine

variable (s : State)

/-! ### setOpa -/

@[simp] theorem State.setOpa_opa (v : Word) : (s.setOpa v).opa = .of v := rfl
@[simp] theorem State.setOpa_opb (v : Word) : (s.setOpa v).opb = s.opb := rfl
@[simp] theorem State.setOpa_opc (v : Word) : (s.setOpa v).opc = s.opc := rfl
@[simp] theorem State.setOpa_status (v : Word) : (s.setOpa v).status = s.status := rfl
@[simp] theorem State.setOpa_res0 (v : Word) : (s.setOpa v).res0 = s.res0 := rfl
@[simp] theorem State.setOpa_res1 (v : Word) : (s.setOpa v).res1 = s.res1 := rfl
@[simp] theorem State.setOpa_res2 (v : Word) : (s.setOpa v).res2 = s.res2 := rfl
@[simp] theorem State.setOpa_hdr (v : Word) : (s.setOpa v).hdr = s.hdr := rfl
@[simp] theorem State.setOpa_expName (v : Word) : (s.setOpa v).expName = s.expName := rfl
@[simp] theorem State.setOpa_rb (v : Word) : (s.setOpa v).rb = s.rb := rfl
@[simp] theorem State.setOpa_pkt (v : Word) : (s.setOpa v).pkt = s.pkt := rfl
@[simp] theorem State.setOpa_ring (v : Word) : (s.setOpa v).ring = s.ring := rfl
@[simp] theorem State.setOpa_params (v : Word) : (s.setOpa v).params = s.params := rfl
@[simp] theorem State.setOpa_bus (v : Word) : (s.setOpa v).bus = s.bus := rfl
@[simp] theorem State.setOpa_replies (v : Word) : (s.setOpa v).replies = s.replies := rfl
@[simp] theorem State.setOpa_nextDraw (v : Word) : (s.setOpa v).nextDraw = s.nextDraw := rfl

/-! ### setOpb -/

@[simp] theorem State.setOpb_opa (v : Word) : (s.setOpb v).opa = s.opa := rfl
@[simp] theorem State.setOpb_opb (v : Word) : (s.setOpb v).opb = .of v := rfl
@[simp] theorem State.setOpb_opc (v : Word) : (s.setOpb v).opc = s.opc := rfl
@[simp] theorem State.setOpb_status (v : Word) : (s.setOpb v).status = s.status := rfl
@[simp] theorem State.setOpb_res0 (v : Word) : (s.setOpb v).res0 = s.res0 := rfl
@[simp] theorem State.setOpb_res1 (v : Word) : (s.setOpb v).res1 = s.res1 := rfl
@[simp] theorem State.setOpb_res2 (v : Word) : (s.setOpb v).res2 = s.res2 := rfl
@[simp] theorem State.setOpb_hdr (v : Word) : (s.setOpb v).hdr = s.hdr := rfl
@[simp] theorem State.setOpb_expName (v : Word) : (s.setOpb v).expName = s.expName := rfl
@[simp] theorem State.setOpb_rb (v : Word) : (s.setOpb v).rb = s.rb := rfl
@[simp] theorem State.setOpb_pkt (v : Word) : (s.setOpb v).pkt = s.pkt := rfl
@[simp] theorem State.setOpb_ring (v : Word) : (s.setOpb v).ring = s.ring := rfl
@[simp] theorem State.setOpb_params (v : Word) : (s.setOpb v).params = s.params := rfl
@[simp] theorem State.setOpb_bus (v : Word) : (s.setOpb v).bus = s.bus := rfl
@[simp] theorem State.setOpb_replies (v : Word) : (s.setOpb v).replies = s.replies := rfl
@[simp] theorem State.setOpb_nextDraw (v : Word) : (s.setOpb v).nextDraw = s.nextDraw := rfl

/-! ### setOpc -/

@[simp] theorem State.setOpc_opa (v : Word) : (s.setOpc v).opa = s.opa := rfl
@[simp] theorem State.setOpc_opb (v : Word) : (s.setOpc v).opb = s.opb := rfl
@[simp] theorem State.setOpc_opc (v : Word) : (s.setOpc v).opc = .of v := rfl
@[simp] theorem State.setOpc_status (v : Word) : (s.setOpc v).status = s.status := rfl
@[simp] theorem State.setOpc_res0 (v : Word) : (s.setOpc v).res0 = s.res0 := rfl
@[simp] theorem State.setOpc_res1 (v : Word) : (s.setOpc v).res1 = s.res1 := rfl
@[simp] theorem State.setOpc_res2 (v : Word) : (s.setOpc v).res2 = s.res2 := rfl
@[simp] theorem State.setOpc_hdr (v : Word) : (s.setOpc v).hdr = s.hdr := rfl
@[simp] theorem State.setOpc_expName (v : Word) : (s.setOpc v).expName = s.expName := rfl
@[simp] theorem State.setOpc_rb (v : Word) : (s.setOpc v).rb = s.rb := rfl
@[simp] theorem State.setOpc_pkt (v : Word) : (s.setOpc v).pkt = s.pkt := rfl
@[simp] theorem State.setOpc_ring (v : Word) : (s.setOpc v).ring = s.ring := rfl
@[simp] theorem State.setOpc_params (v : Word) : (s.setOpc v).params = s.params := rfl
@[simp] theorem State.setOpc_bus (v : Word) : (s.setOpc v).bus = s.bus := rfl
@[simp] theorem State.setOpc_replies (v : Word) : (s.setOpc v).replies = s.replies := rfl
@[simp] theorem State.setOpc_nextDraw (v : Word) : (s.setOpc v).nextDraw = s.nextDraw := rfl

/-! ### setStatus -/

@[simp] theorem State.setStatus_opa (v : Byte) : (s.setStatus v).opa = s.opa := rfl
@[simp] theorem State.setStatus_opb (v : Byte) : (s.setStatus v).opb = s.opb := rfl
@[simp] theorem State.setStatus_opc (v : Byte) : (s.setStatus v).opc = s.opc := rfl
@[simp] theorem State.setStatus_status (v : Byte) : (s.setStatus v).status = .of v := rfl
@[simp] theorem State.setStatus_res0 (v : Byte) : (s.setStatus v).res0 = s.res0 := rfl
@[simp] theorem State.setStatus_res1 (v : Byte) : (s.setStatus v).res1 = s.res1 := rfl
@[simp] theorem State.setStatus_res2 (v : Byte) : (s.setStatus v).res2 = s.res2 := rfl
@[simp] theorem State.setStatus_hdr (v : Byte) : (s.setStatus v).hdr = s.hdr := rfl
@[simp] theorem State.setStatus_expName (v : Byte) : (s.setStatus v).expName = s.expName := rfl
@[simp] theorem State.setStatus_rb (v : Byte) : (s.setStatus v).rb = s.rb := rfl
@[simp] theorem State.setStatus_pkt (v : Byte) : (s.setStatus v).pkt = s.pkt := rfl
@[simp] theorem State.setStatus_ring (v : Byte) : (s.setStatus v).ring = s.ring := rfl
@[simp] theorem State.setStatus_params (v : Byte) : (s.setStatus v).params = s.params := rfl
@[simp] theorem State.setStatus_bus (v : Byte) : (s.setStatus v).bus = s.bus := rfl
@[simp] theorem State.setStatus_replies (v : Byte) : (s.setStatus v).replies = s.replies := rfl
@[simp] theorem State.setStatus_nextDraw (v : Byte) : (s.setStatus v).nextDraw = s.nextDraw := rfl

/-! ### setRes0 -/

@[simp] theorem State.setRes0_opa (v : Word) : (s.setRes0 v).opa = s.opa := rfl
@[simp] theorem State.setRes0_opb (v : Word) : (s.setRes0 v).opb = s.opb := rfl
@[simp] theorem State.setRes0_opc (v : Word) : (s.setRes0 v).opc = s.opc := rfl
@[simp] theorem State.setRes0_status (v : Word) : (s.setRes0 v).status = s.status := rfl
@[simp] theorem State.setRes0_res0 (v : Word) : (s.setRes0 v).res0 = .of v := rfl
@[simp] theorem State.setRes0_res1 (v : Word) : (s.setRes0 v).res1 = s.res1 := rfl
@[simp] theorem State.setRes0_res2 (v : Word) : (s.setRes0 v).res2 = s.res2 := rfl
@[simp] theorem State.setRes0_hdr (v : Word) : (s.setRes0 v).hdr = s.hdr := rfl
@[simp] theorem State.setRes0_expName (v : Word) : (s.setRes0 v).expName = s.expName := rfl
@[simp] theorem State.setRes0_rb (v : Word) : (s.setRes0 v).rb = s.rb := rfl
@[simp] theorem State.setRes0_pkt (v : Word) : (s.setRes0 v).pkt = s.pkt := rfl
@[simp] theorem State.setRes0_ring (v : Word) : (s.setRes0 v).ring = s.ring := rfl
@[simp] theorem State.setRes0_params (v : Word) : (s.setRes0 v).params = s.params := rfl
@[simp] theorem State.setRes0_bus (v : Word) : (s.setRes0 v).bus = s.bus := rfl
@[simp] theorem State.setRes0_replies (v : Word) : (s.setRes0 v).replies = s.replies := rfl
@[simp] theorem State.setRes0_nextDraw (v : Word) : (s.setRes0 v).nextDraw = s.nextDraw := rfl

/-! ### setRes1 -/

@[simp] theorem State.setRes1_opa (v : Word) : (s.setRes1 v).opa = s.opa := rfl
@[simp] theorem State.setRes1_opb (v : Word) : (s.setRes1 v).opb = s.opb := rfl
@[simp] theorem State.setRes1_opc (v : Word) : (s.setRes1 v).opc = s.opc := rfl
@[simp] theorem State.setRes1_status (v : Word) : (s.setRes1 v).status = s.status := rfl
@[simp] theorem State.setRes1_res0 (v : Word) : (s.setRes1 v).res0 = s.res0 := rfl
@[simp] theorem State.setRes1_res1 (v : Word) : (s.setRes1 v).res1 = .of v := rfl
@[simp] theorem State.setRes1_res2 (v : Word) : (s.setRes1 v).res2 = s.res2 := rfl
@[simp] theorem State.setRes1_hdr (v : Word) : (s.setRes1 v).hdr = s.hdr := rfl
@[simp] theorem State.setRes1_expName (v : Word) : (s.setRes1 v).expName = s.expName := rfl
@[simp] theorem State.setRes1_rb (v : Word) : (s.setRes1 v).rb = s.rb := rfl
@[simp] theorem State.setRes1_pkt (v : Word) : (s.setRes1 v).pkt = s.pkt := rfl
@[simp] theorem State.setRes1_ring (v : Word) : (s.setRes1 v).ring = s.ring := rfl
@[simp] theorem State.setRes1_params (v : Word) : (s.setRes1 v).params = s.params := rfl
@[simp] theorem State.setRes1_bus (v : Word) : (s.setRes1 v).bus = s.bus := rfl
@[simp] theorem State.setRes1_replies (v : Word) : (s.setRes1 v).replies = s.replies := rfl
@[simp] theorem State.setRes1_nextDraw (v : Word) : (s.setRes1 v).nextDraw = s.nextDraw := rfl

/-! ### setRes2 -/

@[simp] theorem State.setRes2_opa (v : Word) : (s.setRes2 v).opa = s.opa := rfl
@[simp] theorem State.setRes2_opb (v : Word) : (s.setRes2 v).opb = s.opb := rfl
@[simp] theorem State.setRes2_opc (v : Word) : (s.setRes2 v).opc = s.opc := rfl
@[simp] theorem State.setRes2_status (v : Word) : (s.setRes2 v).status = s.status := rfl
@[simp] theorem State.setRes2_res0 (v : Word) : (s.setRes2 v).res0 = s.res0 := rfl
@[simp] theorem State.setRes2_res1 (v : Word) : (s.setRes2 v).res1 = s.res1 := rfl
@[simp] theorem State.setRes2_res2 (v : Word) : (s.setRes2 v).res2 = .of v := rfl
@[simp] theorem State.setRes2_hdr (v : Word) : (s.setRes2 v).hdr = s.hdr := rfl
@[simp] theorem State.setRes2_expName (v : Word) : (s.setRes2 v).expName = s.expName := rfl
@[simp] theorem State.setRes2_rb (v : Word) : (s.setRes2 v).rb = s.rb := rfl
@[simp] theorem State.setRes2_pkt (v : Word) : (s.setRes2 v).pkt = s.pkt := rfl
@[simp] theorem State.setRes2_ring (v : Word) : (s.setRes2 v).ring = s.ring := rfl
@[simp] theorem State.setRes2_params (v : Word) : (s.setRes2 v).params = s.params := rfl
@[simp] theorem State.setRes2_bus (v : Word) : (s.setRes2 v).bus = s.bus := rfl
@[simp] theorem State.setRes2_replies (v : Word) : (s.setRes2 v).replies = s.replies := rfl
@[simp] theorem State.setRes2_nextDraw (v : Word) : (s.setRes2 v).nextDraw = s.nextDraw := rfl

/-! ### setHdr -/

@[simp] theorem State.setHdr_opa (h : Header) : (s.setHdr h).opa = s.opa := rfl
@[simp] theorem State.setHdr_opb (h : Header) : (s.setHdr h).opb = s.opb := rfl
@[simp] theorem State.setHdr_opc (h : Header) : (s.setHdr h).opc = s.opc := rfl
@[simp] theorem State.setHdr_status (h : Header) : (s.setHdr h).status = s.status := rfl
@[simp] theorem State.setHdr_res0 (h : Header) : (s.setHdr h).res0 = s.res0 := rfl
@[simp] theorem State.setHdr_res1 (h : Header) : (s.setHdr h).res1 = s.res1 := rfl
@[simp] theorem State.setHdr_res2 (h : Header) : (s.setHdr h).res2 = s.res2 := rfl
@[simp] theorem State.setHdr_hdr (h : Header) : (s.setHdr h).hdr = h := rfl
@[simp] theorem State.setHdr_expName (h : Header) : (s.setHdr h).expName = s.expName := rfl
@[simp] theorem State.setHdr_rb (h : Header) : (s.setHdr h).rb = s.rb := rfl
@[simp] theorem State.setHdr_pkt (h : Header) : (s.setHdr h).pkt = s.pkt := rfl
@[simp] theorem State.setHdr_ring (h : Header) : (s.setHdr h).ring = s.ring := rfl
@[simp] theorem State.setHdr_params (h : Header) : (s.setHdr h).params = s.params := rfl
@[simp] theorem State.setHdr_bus (h : Header) : (s.setHdr h).bus = s.bus := rfl
@[simp] theorem State.setHdr_replies (h : Header) : (s.setHdr h).replies = s.replies := rfl
@[simp] theorem State.setHdr_nextDraw (h : Header) : (s.setHdr h).nextDraw = s.nextDraw := rfl

/-! ### setExpName -/

@[simp] theorem State.setExpName_opa (n : Vector Byte 16) : (s.setExpName n).opa = s.opa := rfl
@[simp] theorem State.setExpName_opb (n : Vector Byte 16) : (s.setExpName n).opb = s.opb := rfl
@[simp] theorem State.setExpName_opc (n : Vector Byte 16) : (s.setExpName n).opc = s.opc := rfl
@[simp] theorem State.setExpName_status (n : Vector Byte 16) : (s.setExpName n).status = s.status := rfl
@[simp] theorem State.setExpName_res0 (n : Vector Byte 16) : (s.setExpName n).res0 = s.res0 := rfl
@[simp] theorem State.setExpName_res1 (n : Vector Byte 16) : (s.setExpName n).res1 = s.res1 := rfl
@[simp] theorem State.setExpName_res2 (n : Vector Byte 16) : (s.setExpName n).res2 = s.res2 := rfl
@[simp] theorem State.setExpName_hdr (n : Vector Byte 16) : (s.setExpName n).hdr = s.hdr := rfl
@[simp] theorem State.setExpName_expName (n : Vector Byte 16) : (s.setExpName n).expName = n := rfl
@[simp] theorem State.setExpName_rb (n : Vector Byte 16) : (s.setExpName n).rb = s.rb := rfl
@[simp] theorem State.setExpName_pkt (n : Vector Byte 16) : (s.setExpName n).pkt = s.pkt := rfl
@[simp] theorem State.setExpName_ring (n : Vector Byte 16) : (s.setExpName n).ring = s.ring := rfl
@[simp] theorem State.setExpName_params (n : Vector Byte 16) : (s.setExpName n).params = s.params := rfl
@[simp] theorem State.setExpName_bus (n : Vector Byte 16) : (s.setExpName n).bus = s.bus := rfl
@[simp] theorem State.setExpName_replies (n : Vector Byte 16) : (s.setExpName n).replies = s.replies := rfl
@[simp] theorem State.setExpName_nextDraw (n : Vector Byte 16) : (s.setExpName n).nextDraw = s.nextDraw := rfl

/-! ### setRb -/

@[simp] theorem State.setRb_opa (r : RingRegs) : (s.setRb r).opa = s.opa := rfl
@[simp] theorem State.setRb_opb (r : RingRegs) : (s.setRb r).opb = s.opb := rfl
@[simp] theorem State.setRb_opc (r : RingRegs) : (s.setRb r).opc = s.opc := rfl
@[simp] theorem State.setRb_status (r : RingRegs) : (s.setRb r).status = s.status := rfl
@[simp] theorem State.setRb_res0 (r : RingRegs) : (s.setRb r).res0 = s.res0 := rfl
@[simp] theorem State.setRb_res1 (r : RingRegs) : (s.setRb r).res1 = s.res1 := rfl
@[simp] theorem State.setRb_res2 (r : RingRegs) : (s.setRb r).res2 = s.res2 := rfl
@[simp] theorem State.setRb_hdr (r : RingRegs) : (s.setRb r).hdr = s.hdr := rfl
@[simp] theorem State.setRb_expName (r : RingRegs) : (s.setRb r).expName = s.expName := rfl
@[simp] theorem State.setRb_rb (r : RingRegs) : (s.setRb r).rb = r := rfl
@[simp] theorem State.setRb_pkt (r : RingRegs) : (s.setRb r).pkt = s.pkt := rfl
@[simp] theorem State.setRb_ring (r : RingRegs) : (s.setRb r).ring = s.ring := rfl
@[simp] theorem State.setRb_params (r : RingRegs) : (s.setRb r).params = s.params := rfl
@[simp] theorem State.setRb_bus (r : RingRegs) : (s.setRb r).bus = s.bus := rfl
@[simp] theorem State.setRb_replies (r : RingRegs) : (s.setRb r).replies = s.replies := rfl
@[simp] theorem State.setRb_nextDraw (r : RingRegs) : (s.setRb r).nextDraw = s.nextDraw := rfl

/-! ### setPkt -/

@[simp] theorem State.setPkt_opa (m : Memory) : (s.setPkt m).opa = s.opa := rfl
@[simp] theorem State.setPkt_opb (m : Memory) : (s.setPkt m).opb = s.opb := rfl
@[simp] theorem State.setPkt_opc (m : Memory) : (s.setPkt m).opc = s.opc := rfl
@[simp] theorem State.setPkt_status (m : Memory) : (s.setPkt m).status = s.status := rfl
@[simp] theorem State.setPkt_res0 (m : Memory) : (s.setPkt m).res0 = s.res0 := rfl
@[simp] theorem State.setPkt_res1 (m : Memory) : (s.setPkt m).res1 = s.res1 := rfl
@[simp] theorem State.setPkt_res2 (m : Memory) : (s.setPkt m).res2 = s.res2 := rfl
@[simp] theorem State.setPkt_hdr (m : Memory) : (s.setPkt m).hdr = s.hdr := rfl
@[simp] theorem State.setPkt_expName (m : Memory) : (s.setPkt m).expName = s.expName := rfl
@[simp] theorem State.setPkt_rb (m : Memory) : (s.setPkt m).rb = s.rb := rfl
@[simp] theorem State.setPkt_pkt (m : Memory) : (s.setPkt m).pkt = m := rfl
@[simp] theorem State.setPkt_ring (m : Memory) : (s.setPkt m).ring = s.ring := rfl
@[simp] theorem State.setPkt_params (m : Memory) : (s.setPkt m).params = s.params := rfl
@[simp] theorem State.setPkt_bus (m : Memory) : (s.setPkt m).bus = s.bus := rfl
@[simp] theorem State.setPkt_replies (m : Memory) : (s.setPkt m).replies = s.replies := rfl
@[simp] theorem State.setPkt_nextDraw (m : Memory) : (s.setPkt m).nextDraw = s.nextDraw := rfl

/-! ### setRing -/

@[simp] theorem State.setRing_opa (m : Memory) : (s.setRing m).opa = s.opa := rfl
@[simp] theorem State.setRing_opb (m : Memory) : (s.setRing m).opb = s.opb := rfl
@[simp] theorem State.setRing_opc (m : Memory) : (s.setRing m).opc = s.opc := rfl
@[simp] theorem State.setRing_status (m : Memory) : (s.setRing m).status = s.status := rfl
@[simp] theorem State.setRing_res0 (m : Memory) : (s.setRing m).res0 = s.res0 := rfl
@[simp] theorem State.setRing_res1 (m : Memory) : (s.setRing m).res1 = s.res1 := rfl
@[simp] theorem State.setRing_res2 (m : Memory) : (s.setRing m).res2 = s.res2 := rfl
@[simp] theorem State.setRing_hdr (m : Memory) : (s.setRing m).hdr = s.hdr := rfl
@[simp] theorem State.setRing_expName (m : Memory) : (s.setRing m).expName = s.expName := rfl
@[simp] theorem State.setRing_rb (m : Memory) : (s.setRing m).rb = s.rb := rfl
@[simp] theorem State.setRing_pkt (m : Memory) : (s.setRing m).pkt = s.pkt := rfl
@[simp] theorem State.setRing_ring (m : Memory) : (s.setRing m).ring = m := rfl
@[simp] theorem State.setRing_params (m : Memory) : (s.setRing m).params = s.params := rfl
@[simp] theorem State.setRing_bus (m : Memory) : (s.setRing m).bus = s.bus := rfl
@[simp] theorem State.setRing_replies (m : Memory) : (s.setRing m).replies = s.replies := rfl
@[simp] theorem State.setRing_nextDraw (m : Memory) : (s.setRing m).nextDraw = s.nextDraw := rfl

/-! ### setBus -/

@[simp] theorem State.setBus_opa (es : List HostEvent) : (s.setBus es).opa = s.opa := rfl
@[simp] theorem State.setBus_opb (es : List HostEvent) : (s.setBus es).opb = s.opb := rfl
@[simp] theorem State.setBus_opc (es : List HostEvent) : (s.setBus es).opc = s.opc := rfl
@[simp] theorem State.setBus_status (es : List HostEvent) : (s.setBus es).status = s.status := rfl
@[simp] theorem State.setBus_res0 (es : List HostEvent) : (s.setBus es).res0 = s.res0 := rfl
@[simp] theorem State.setBus_res1 (es : List HostEvent) : (s.setBus es).res1 = s.res1 := rfl
@[simp] theorem State.setBus_res2 (es : List HostEvent) : (s.setBus es).res2 = s.res2 := rfl
@[simp] theorem State.setBus_hdr (es : List HostEvent) : (s.setBus es).hdr = s.hdr := rfl
@[simp] theorem State.setBus_expName (es : List HostEvent) : (s.setBus es).expName = s.expName := rfl
@[simp] theorem State.setBus_rb (es : List HostEvent) : (s.setBus es).rb = s.rb := rfl
@[simp] theorem State.setBus_pkt (es : List HostEvent) : (s.setBus es).pkt = s.pkt := rfl
@[simp] theorem State.setBus_ring (es : List HostEvent) : (s.setBus es).ring = s.ring := rfl
@[simp] theorem State.setBus_params (es : List HostEvent) : (s.setBus es).params = s.params := rfl
@[simp] theorem State.setBus_bus (es : List HostEvent) : (s.setBus es).bus = es := rfl
@[simp] theorem State.setBus_replies (es : List HostEvent) : (s.setBus es).replies = s.replies := rfl
@[simp] theorem State.setBus_nextDraw (es : List HostEvent) : (s.setBus es).nextDraw = s.nextDraw := rfl

/-! ### pushReply -/

@[simp] theorem State.pushReply_opa (r : Reply) : (s.pushReply r).opa = s.opa := rfl
@[simp] theorem State.pushReply_opb (r : Reply) : (s.pushReply r).opb = s.opb := rfl
@[simp] theorem State.pushReply_opc (r : Reply) : (s.pushReply r).opc = s.opc := rfl
@[simp] theorem State.pushReply_status (r : Reply) : (s.pushReply r).status = s.status := rfl
@[simp] theorem State.pushReply_res0 (r : Reply) : (s.pushReply r).res0 = s.res0 := rfl
@[simp] theorem State.pushReply_res1 (r : Reply) : (s.pushReply r).res1 = s.res1 := rfl
@[simp] theorem State.pushReply_res2 (r : Reply) : (s.pushReply r).res2 = s.res2 := rfl
@[simp] theorem State.pushReply_hdr (r : Reply) : (s.pushReply r).hdr = s.hdr := rfl
@[simp] theorem State.pushReply_expName (r : Reply) : (s.pushReply r).expName = s.expName := rfl
@[simp] theorem State.pushReply_rb (r : Reply) : (s.pushReply r).rb = s.rb := rfl
@[simp] theorem State.pushReply_pkt (r : Reply) : (s.pushReply r).pkt = s.pkt := rfl
@[simp] theorem State.pushReply_ring (r : Reply) : (s.pushReply r).ring = s.ring := rfl
@[simp] theorem State.pushReply_params (r : Reply) : (s.pushReply r).params = s.params := rfl
@[simp] theorem State.pushReply_bus (r : Reply) : (s.pushReply r).bus = s.bus := rfl
@[simp] theorem State.pushReply_replies (r : Reply) : (s.pushReply r).replies = r :: s.replies := rfl
@[simp] theorem State.pushReply_nextDraw (r : Reply) : (s.pushReply r).nextDraw = s.nextDraw := rfl

/-! ### countDraw -/

@[simp] theorem State.countDraw_opa : (s.countDraw).opa = s.opa := rfl
@[simp] theorem State.countDraw_opb : (s.countDraw).opb = s.opb := rfl
@[simp] theorem State.countDraw_opc : (s.countDraw).opc = s.opc := rfl
@[simp] theorem State.countDraw_status : (s.countDraw).status = s.status := rfl
@[simp] theorem State.countDraw_res0 : (s.countDraw).res0 = s.res0 := rfl
@[simp] theorem State.countDraw_res1 : (s.countDraw).res1 = s.res1 := rfl
@[simp] theorem State.countDraw_res2 : (s.countDraw).res2 = s.res2 := rfl
@[simp] theorem State.countDraw_hdr : (s.countDraw).hdr = s.hdr := rfl
@[simp] theorem State.countDraw_expName : (s.countDraw).expName = s.expName := rfl
@[simp] theorem State.countDraw_rb : (s.countDraw).rb = s.rb := rfl
@[simp] theorem State.countDraw_pkt : (s.countDraw).pkt = s.pkt := rfl
@[simp] theorem State.countDraw_ring : (s.countDraw).ring = s.ring := rfl
@[simp] theorem State.countDraw_params : (s.countDraw).params = s.params := rfl
@[simp] theorem State.countDraw_bus : (s.countDraw).bus = s.bus := rfl
@[simp] theorem State.countDraw_replies : (s.countDraw).replies = s.replies := rfl
@[simp] theorem State.countDraw_nextDraw : (s.countDraw).nextDraw = s.nextDraw + 1 := rfl

/-! ### Registers -/

@[simp] theorem Reg.of_val {w : Nat} (v : BitVec w) : (Reg.of v).val = v := rfl
@[simp] theorem Reg.of_written {w : Nat} (v : BitVec w) : (Reg.of v).written = true := rfl
@[simp] theorem Reg.unwritten_written {w : Nat} : (Reg.unwritten : Reg w).written = false := rfl

end Sys2Proof.Machine
end

