-- ==== Sys2Proof/Laws/Bus.lean ====
section
/-! SUPPORT. What a bus access and a step can do, said once: the address map's targets and the inversion of `step`. -/

namespace Sys2Proof.Machine

/-- The offsets a one-byte access names, and what it names there (R63). -/
theorem byteTarget_eq_some {p : Config.Params} {off : Nat} {t : Target} (h : byteTarget p off = some t) :
    (∃ i : Fin 16, t = .hdrName i ∧ off = 0x40 + i.val) ∨ (∃ i : Fin 16, t = .expName i ∧ off = 0x50 + i.val) ∨
    (∃ a, t = .pkt a ∧ off = 0x1000 + a ∧ a < Config.pktSize) ∨
    (∃ a, t = .ring a ∧ off = 0x10000 + a ∧ a < 2 * p.capMax.toNat) := by
  unfold byteTarget at h
  split at h
  · cases h; exact .inl ⟨_, rfl, by simp only; omega⟩
  · split at h
    · cases h; exact .inr (.inl ⟨_, rfl, by simp only; omega⟩)
    · split at h
      · cases h; exact .inr (.inr (.inl ⟨_, rfl, by omega, by omega⟩))
      · split at h
        · cases h; exact .inr (.inr (.inr ⟨_, rfl, by omega, by omega⟩))
        · cases h

/-- The offsets a four-byte access names, and what it names there (R63). -/
theorem wordTarget_eq_some {off : Nat} {t : Target} (h : wordTarget off = some t) :
    (t = .cmd ∧ off = 0) ∨ ∃ r, t = .reg r ∧ off = regOffset r := by
  unfold wordTarget at h
  split at h <;> first
    | (cases h; exact .inl ⟨rfl, rfl⟩)
    | (cases h; exact .inr ⟨_, rfl, rfl⟩)
    | cases h

@[simp] theorem wordTarget_regOffset (r : WordReg) : wordTarget (regOffset r) = some (.reg r) := by cases r <;> rfl

/-- The HDR_NAME bytes stand at 0x40 (R63). -/
@[simp] theorem byteTarget_hdrName (p : Config.Params) (i : Fin 16) : byteTarget p (0x40 + i.val) = some (.hdrName i) := by
  unfold byteTarget
  rw [dif_pos (by omega)]
  simp

/-- The CFG_EXPNAME bytes stand at 0x50 (R63). -/
@[simp] theorem byteTarget_expName (p : Config.Params) (i : Fin 16) : byteTarget p (0x50 + i.val) = some (.expName i) := by
  unfold byteTarget
  rw [dif_neg (by omega), dif_pos (by omega)]
  simp

/-- The PKT bytes stand at 0x1000 (R63). -/
theorem byteTarget_pkt (p : Config.Params) {a : Nat} (h : a < Config.pktSize) : byteTarget p (0x1000 + a) = some (.pkt a) := by
  have : Config.pktSize = 1464 := rfl
  unfold byteTarget
  rw [dif_neg (by omega), dif_neg (by omega), if_pos (by omega)]
  simp

/-- The RING bytes stand at 0x10000 (R63). -/
theorem byteTarget_ring (p : Config.Params) {a : Nat} (h : a < 2 * p.capMax.toNat) :
    byteTarget p (0x10000 + a) = some (.ring a) := by
  have : Config.pktSize = 1464 := rfl
  unfold byteTarget
  rw [dif_neg (by omega), dif_neg (by omega), if_neg (by omega), if_pos (by omega)]
  simp

/-- Every other offset names no byte (R63). -/
theorem byteTarget_none (p : Config.Params) {off : Nat}
    (h : ¬ (0x40 ≤ off ∧ off < 0x60 ∨ 0x1000 ≤ off ∧ off < 0x15B8 ∨ 0x10000 ≤ off ∧ off < 0x10000 + 2 * p.capMax.toNat)) :
    byteTarget p off = none := by
  have : Config.pktSize = 1464 := rfl
  unfold byteTarget
  rw [dif_neg (by omega), dif_neg (by omega), if_neg (by omega), if_neg (by omega)]

/-- The register an offset names, exactly at the aligned word rows of R63 but CMD's. -/
theorem wordTarget_reg_iff (off : Nat) :
    (∃ r, wordTarget off = some (.reg r)) ↔ off % 4 = 0 ∧ (0x4 ≤ off ∧ off < 0x38 ∨ 0x60 ≤ off ∧ off < 0x78) := by
  constructor
  · rintro ⟨r, h⟩
    rcases wordTarget_eq_some h with ⟨h, _⟩ | ⟨r', _, rfl⟩
    · cases h
    · cases r' <;> simp [regOffset]
  · intro h
    have : off < 0x78 := by omega
    interval_cases off <;> first | omega | exact ⟨_, rfl⟩

/-- The registers a host write stores to (R23–R34). -/
theorem writeReg_isSome (s : State) (v : Word) (r : WordReg) :
    (writeReg s v r).isSome ↔ 0x4 ≤ regOffset r ∧ regOffset r < 0x10 ∨ 0x20 ≤ regOffset r ∧ regOffset r < 0x34 := by
  cases r <;> simp [writeReg, regOffset]

@[simp] theorem busOffset_base (p : Config.Params) : busOffset p p.base = 0 := by simp [busOffset]

/-- The offset of a host address is the offset it was made from (R66). -/
theorem busOffset_add (p : Config.Params) {off : Nat} (h : off < 2 ^ 32) :
    busOffset p (p.base + BitVec.ofNat 32 off) = off := by
  have : p.base + BitVec.ofNat 32 off - p.base = BitVec.ofNat 32 off := by
    rw [BitVec.add_comm, BitVec.add_sub_cancel]
  simp only [busOffset, this, BitVec.toNat_ofNat]
  omega

theorem busTarget_four (p : Config.Params) (off : Nat) : busTarget p off 4 = wordTarget off := rfl

theorem busTarget_one (p : Config.Params) (off : Nat) : busTarget p off 1 = byteTarget p off := rfl

/-- A CMD write runs the word's command (R22). -/
theorem busAccess_cmd (who : Agent) (s : State) (w : Word) :
    busAccess who s (.write s.params.base 4 w) = runCommand w s := by
  simp [busAccess, busTarget, wordTarget]

/-- What one step can answer, said once: nothing waiting, a reset, a read, a command, or a stored write. -/
theorem step_next_cases {s t : State} (h : step s = .next t) :
    (s.bus = [] ∧ t = s) ∨
    (∃ rest, s.bus = .reset :: rest ∧ t = platformReset (s.setBus rest)) ∨
    (∃ rest who addr n tg v, s.bus = .access who (.read addr n) :: rest ∧
      busTarget s.params (busOffset s.params addr) n = some tg ∧ readTarget (s.setBus rest) tg = some v ∧
      t = (s.setBus rest).pushReply { who := who, addr := addr, n := n, val := v }) ∨
    (∃ rest who addr n w, s.bus = .access who (.write addr n w) :: rest ∧
      busTarget s.params (busOffset s.params addr) n = some .cmd ∧ runCommand w (s.setBus rest) = .next t) ∨
    (∃ rest who addr n v tg, s.bus = .access who (.write addr n v) :: rest ∧
      busTarget s.params (busOffset s.params addr) n = some tg ∧ tg ≠ .cmd ∧
      writeTarget (s.setBus rest) v tg = some t) := by
  unfold step hostStep at h
  split at h
  · exact .inl ⟨‹_›, by injection h with h; exact h.symm⟩
  · rename_i e rest he
    refine .inr ?_
    unfold hostEvent at h
    split at h
    · rename_i who a
      refine .inr ?_
      unfold busAccess at h
      split at h
      · rename_i addr n
        refine .inl ?_
        simp only [State.setBus_params] at h
        cases hb : busTarget s.params (busOffset s.params addr) n with
        | none => simp [hb] at h
        | some tg =>
          cases hr : readTarget (s.setBus rest) tg with
          | none => simp [hb, hr] at h
          | some v =>
            simp only [hb, hr, Option.bind_some] at h
            injection h with h
            exact ⟨rest, who, addr, n, tg, v, he, hb, hr, h.symm⟩
      · rename_i addr n v
        refine .inr ?_
        simp only [State.setBus_params] at h
        split at h
        · exact .inl ⟨rest, who, addr, n, v, he, ‹_›, h⟩
        · rename_i tg hne hb
          split at h
          · rename_i u hu
            injection h with h
            subst h
            exact .inr ⟨rest, who, addr, n, v, tg, he, hb, fun hc => hne hc, hu⟩
          · cases h
        · cases h
    · injection h with h
      exact .inl ⟨rest, he, h.symm⟩

/-- What a stored write changes, said once (R69). -/
theorem writeTarget_cases {s t : State} {v : Word} {tg : Target} (h : writeTarget s v tg = some t) :
    t = { s with opa := t.opa, opb := t.opb, opc := t.opc, hdr := t.hdr, expName := t.expName, pkt := t.pkt } := by
  cases tg with
  | reg r => cases r <;> simp [writeTarget, writeReg] at h <;> subst h <;> rfl
  | hdrName i => simp [writeTarget] at h; subst h; rfl
  | expName i => simp [writeTarget] at h; subst h; rfl
  | pkt a => simp [writeTarget] at h; subst h; rfl
  | cmd => simp [writeTarget] at h
  | ring a => simp [writeTarget] at h

end Sys2Proof.Machine
end

