-- ==== Sys2Proof/Laws/Codec.lean ====
section
/-! SUPPORT. What the codec's shared operations do, said once: the little-endian words, the bit fields as arithmetic,
the header image and the tables. -/

namespace Sys2Proof.Machine

/-! ### Little-endian words -/

theorem le32_toNat (b0 b1 b2 b3 : Byte) :
    (le32 b0 b1 b2 b3).toNat = b0.toNat + 256 * b1.toNat + 65536 * b2.toNat + 16777216 * b3.toNat := by
  have := b0.isLt; have := b1.isLt; have := b2.isLt; have := b3.isLt
  simp only [le32, BitVec.toNat_ofNat]
  omega

@[simp] theorem le32bytes_length (v : Word) : (le32bytes v).length = 4 := rfl

theorem le32bytes_getElem (v : Word) (i : Nat) (h : i < (le32bytes v).length) :
    ((le32bytes v)[i]).toNat = v.toNat / 256 ^ i % 256 := by
  have : i < 4 := h
  have e : ∀ k, (v.extractLsb' k 8).toNat = v.toNat / 2 ^ k % 256 := by
    intro k; rw [BitVec.extractLsb'_toNat, Nat.shiftRight_eq_div_pow]
  rcases i with _ | _ | _ | _ | i
  · simp [le32bytes, e]
  · simp [le32bytes, e]
  · simp [le32bytes, e]
  · simp [le32bytes, e]
  · omega

/-- Reading the four bytes of a word little-endian gives the word (R12). -/
theorem le32_le32bytes (v : Word) :
    le32 (v.extractLsb' 0 8) (v.extractLsb' 8 8) (v.extractLsb' 16 8) (v.extractLsb' 24 8) = v := by
  apply BitVec.eq_of_toNat_eq
  have := v.isLt
  simp only [le32_toNat, BitVec.extractLsb'_toNat, Nat.shiftRight_eq_div_pow]
  omega

/-- The four bytes of a little-endian word are the bytes it was read from (R12). -/
theorem le32bytes_le32 (b0 b1 b2 b3 : Byte) : le32bytes (le32 b0 b1 b2 b3) = [b0, b1, b2, b3] := by
  have h0 := b0.isLt; have h1 := b1.isLt; have h2 := b2.isLt; have h3 := b3.isLt
  simp only [le32bytes, List.cons.injEq, and_true]
  refine ⟨?_, ?_, ?_, ?_⟩ <;> apply BitVec.eq_of_toNat_eq <;>
    simp only [BitVec.extractLsb'_toNat, Nat.shiftRight_eq_div_pow, le32_toNat] <;> omega

/-! ### Bit fields as arithmetic (R91, R92) -/

theorem srIdxField_toNat (b : Byte) : (srIdxField b).toNat = b.toNat % 32 := by
  revert b; decide

theorem spIdField_toNat (b : Byte) : (spIdField b).toNat = b.toNat / 32 := by
  revert b; decide

theorem dtIdField_toNat (b : Byte) : (dtIdField b).toNat = b.toNat % 8 := by
  revert b; decide

theorem rsvField_toNat (b : Byte) : (rsvField b).toNat = b.toNat / 8 % 2 := by
  revert b; decide

theorem codecField_toNat (b : Byte) : (codecField b).toNat = b.toNat / 16 := by
  revert b; decide

theorem packSrspByte_toNat {sr sp : Nat} (h1 : sr < 32) (h2 : sp < 8) : (packSrspByte sr sp).toNat = sp * 32 + sr := by
  have key : ∀ sp : Fin 8, ∀ sr : Fin 32, (packSrspByte sr.val sp.val).toNat = sp.val * 32 + sr.val := by decide
  exact key ⟨sp, h2⟩ ⟨sr, h1⟩

theorem packFmtByte_toNat {dt rsv codec : Nat} (h1 : dt < 8) (h2 : rsv < 2) (h3 : codec < 16) :
    (packFmtByte dt rsv codec).toNat = codec * 16 + rsv * 8 + dt := by
  have key : ∀ codec : Fin 16, ∀ rsv : Fin 2, ∀ dt : Fin 8,
      (packFmtByte dt.val rsv.val codec.val).toNat = codec.val * 16 + rsv.val * 8 + dt.val := by decide
  exact key ⟨codec, h3⟩ ⟨rsv, h2⟩ ⟨dt, h1⟩

theorem fitsField_iff (n v : Nat) : fitsField n v = true ↔ v < 2 ^ n := by simp [fitsField]

@[simp] theorem zextByte_toNat (b : Byte) : (zextByte b).toNat = b.toNat := by
  have := b.isLt
  simp only [zextByte, BitVec.toNat_setWidth]
  omega

/-! ### The header image (R131, R137) -/

@[simp] theorem hdrBytes_length (p : Config.Params) (h : Header) : (hdrBytes p h).length = 28 := by
  simp [hdrBytes]

/-- Everything `load_header` writes (R131). -/
theorem loadHeader_eq (m : Memory) (h : Header) :
    (loadHeader m h).srsp = .of (m.read 4) ∧ (loadHeader m h).nbs = .of (m.read 5) ∧
    (loadHeader m h).nbc = .of (m.read 6) ∧ (loadHeader m h).fmt = .of (m.read 7) ∧
    (∀ i : Fin 16, (loadHeader m h).name[i] = .of (m.read (8 + i.val))) ∧
    (loadHeader m h).frame = .of (pktFrame m) ∧ (loadHeader m h).plen = h.plen := by
  refine ⟨rfl, rfl, rfl, rfl, fun i => ?_, rfl, rfl⟩
  simp [loadHeader]

/-- The header image byte by byte: magic, the four byte registers, the name, the frame counter (R90, R137). -/
theorem hdrBytes_getElem? (p : Config.Params) (h : Header) (i : Nat) :
    (hdrBytes p h)[i]? =
      if i < 4 then (le32bytes p.magic)[i]?
      else if i < 8 then [h.srsp.val, h.nbs.val, h.nbc.val, h.fmt.val][i - 4]?
      else if i < 24 then (h.name.toList.map Reg.val)[i - 8]?
      else (le32bytes h.frame.val)[i - 24]? := by
  simp only [hdrBytes, List.getElem?_append, le32bytes_length, List.length_append, List.length_cons,
    List.length_nil, List.length_map, Vector.length_toList]
  by_cases h1 : i < 4
  · simp [h1, show i < 8 by omega, show i < 24 by omega]
  · by_cases h2 : i < 8
    · simp [h1, h2, show i < 24 by omega]
    · by_cases h3 : i < 24 <;> simp [h1, h2, h3]

/-! ### Tables -/

theorem srToHz_above {i : Nat} (h : 21 ≤ i) : srToHz i = 0 := by
  simp [srToHz, srTable, List.getD_eq_getElem?_getD, List.getElem?_eq_none (show [6000, 12000, 24000, 48000, 96000,
    192000, 384000, 8000, 16000, 32000, 64000, 128000, 256000, 512000, 11025, 22050, 44100, 88200, 176400, 352800,
    705600].length ≤ i by simpa using h)]

/-- What the ascending scan answers, said once: the first index from the start on whose rate it is, or none (R144). -/
theorem scanRates_eq (start hz : Nat) (rs : List Nat) :
    scanRates start rs hz = (rs.idxOf? hz).map (start + ·) := by
  induction rs generalizing start with
  | nil => simp [scanRates]
  | cons r rs ih =>
    by_cases h : r = hz
    · subst h; simp [scanRates, List.idxOf?_cons]
    · simp only [scanRates, if_neg h, ih, List.idxOf?_cons, beq_iff_eq, Option.map_map]
      congr 1
      funext k
      simp only [Function.comp]
      omega

theorem flagWord_eq (b : Bool) : flagWord b = if b then 1 else 0 := rfl

end Sys2Proof.Machine
end

