-- ==== Sys2Proof/Laws/PerInstr.lean ====
section
/-! SUPPORT. Per-instruction families: each command's word, written by the encoder, is one legal word and decodes back
to the command (spec/30_encoding.md R100, R104). -/

namespace Sys2Proof.Laws.RoundTrip

/-- A command is well-formed, its word is legal, and its word decodes to it. -/
def Statement (i : Instr) : Prop := i.wf = true ∧ wordWf (encode i) = true ∧ decode (encode i) = .ok i

theorem hdrDecode : Statement .hdrDecode := ⟨rfl, rfl, rfl⟩
theorem hdrEncode : Statement .hdrEncode := ⟨rfl, rfl, rfl⟩
theorem packSrsp : Statement .packSrsp := ⟨rfl, rfl, rfl⟩
theorem packFmt : Statement .packFmt := ⟨rfl, rfl, rfl⟩
theorem unpackSrsp : Statement .unpackSrsp := ⟨rfl, rfl, rfl⟩
theorem unpackFmt : Statement .unpackFmt := ⟨rfl, rfl, rfl⟩
theorem srToHz : Statement .srToHz := ⟨rfl, rfl, rfl⟩
theorem hzToSr : Statement .hzToSr := ⟨rfl, rfl, rfl⟩
theorem dtSize : Statement .dtSize := ⟨rfl, rfl, rfl⟩
theorem expectLen : Statement .expectLen := ⟨rfl, rfl, rfl⟩
theorem rxClassify : Statement .rxClassify := ⟨rfl, rfl, rfl⟩
theorem rbInit : Statement .rbInit := ⟨rfl, rfl, rfl⟩
theorem rbDeinit : Statement .rbDeinit := ⟨rfl, rfl, rfl⟩
theorem rbWrite : Statement .rbWrite := ⟨rfl, rfl, rfl⟩
theorem rbRegion : Statement .rbRegion := ⟨rfl, rfl, rfl⟩
theorem rbConsume : Statement .rbConsume := ⟨rfl, rfl, rfl⟩
theorem rbCount : Statement .rbCount := ⟨rfl, rfl, rfl⟩
theorem rbCapacity : Statement .rbCapacity := ⟨rfl, rfl, rfl⟩
theorem rbFree : Statement .rbFree := ⟨rfl, rfl, rfl⟩
theorem rbEmpty : Statement .rbEmpty := ⟨rfl, rfl, rfl⟩
theorem rbFull : Statement .rbFull := ⟨rfl, rfl, rfl⟩

end Sys2Proof.Laws.RoundTrip
end

