-- ==== Sys2Proof/Laws/Ring.lean ====
section
/-! SUPPORT. What the ring's shared operations do, said once: the mirrored write and the split write of
Sys2Proof/Machine/Ring.lean. -/

namespace Sys2Proof.Machine

/-- Everything a mirrored write does to the bytes: the run stands at its offsets and at their mirror offsets. -/
theorem Memory.read_writeMirrored (m : Memory) (c a : Nat) (bs : List Byte) (x : Nat) :
    (m.writeMirrored c a bs).read x =
      if h : a + c ≤ x ∧ x < a + c + bs.length then bs[x - (a + c)]'(by omega)
      else if h : a ≤ x ∧ x < a + bs.length then bs[x - a]'(by omega) else m.read x := by
  rw [Memory.writeMirrored, Memory.read_writeRun]
  by_cases h1 : a + c ≤ x ∧ x < a + c + bs.length
  · rw [dif_pos h1, dif_pos h1]
  · rw [dif_neg h1, dif_neg h1, Memory.read_writeRun]

theorem Memory.wf_writeMirrored {size : Nat} {m : Memory} (h : m.wf size) (c a : Nat) (bs : List Byte)
    (hin : a + c + bs.length ≤ size) : (m.writeMirrored c a bs).wf size :=
  Memory.wf_writeRun (Memory.wf_writeRun h a bs (by omega)) (a + c) bs hin

/-- The split write at an offset, whatever the offset is: the wrapped segment and its mirror, the head segment and
its mirror, or the byte from before (R203). -/
theorem ringAppend_read (ring pkt : Memory) (c h src len x : Nat) :
    (ringAppend ring pkt c h src len).read x =
      if c ≤ x ∧ x < c + (len - min len (c - h)) then pkt.read (src + min len (c - h) + (x - c))
      else if x < len - min len (c - h) then pkt.read (src + min len (c - h) + x)
      else if h + c ≤ x ∧ x < h + c + min len (c - h) then pkt.read (src + (x - (h + c)))
      else if h ≤ x ∧ x < h + min len (c - h) then pkt.read (src + (x - h))
      else ring.read x := by
  simp only [ringAppend, Memory.read_writeMirrored, Memory.readRun_length, Memory.readRun_getElem, Nat.zero_add,
    Nat.zero_le, true_and, Nat.sub_zero, dite_eq_ite]

/-- A byte of a split write stands at its logical position and at the mirror (R204). -/
theorem ringAppend_read_written (ring pkt : Memory) {c h src len i : Nat} (hh : h < c) (hlen : len ≤ c) (hi : i < len) :
    (ringAppend ring pkt c h src len).read ((h + i) % c) = pkt.read (src + i) ∧
    (ringAppend ring pkt c h src len).read ((h + i) % c + c) = pkt.read (src + i) := by
  have hmod : (h + i) % c = if h + i < c then h + i else h + i - c := by
    split
    · exact Nat.mod_eq_of_lt ‹_›
    · rw [Nat.mod_eq_sub_mod (by omega), Nat.mod_eq_of_lt (by omega)]
  simp only [ringAppend_read, hmod]
  by_cases hw : h + i < c
  · simp only [if_pos hw]
    have e1 : ¬ (c ≤ h + i ∧ h + i < c + (len - min len (c - h))) := by omega
    have e2 : ¬ h + i < len - min len (c - h) := by omega
    have e3 : ¬ (h + c ≤ h + i ∧ h + i < h + c + min len (c - h)) := by omega
    have e4 : h ≤ h + i ∧ h + i < h + min len (c - h) := by omega
    have f1 : ¬ (c ≤ h + i + c ∧ h + i + c < c + (len - min len (c - h))) := by omega
    have f2 : ¬ h + i + c < len - min len (c - h) := by omega
    have f3 : h + c ≤ h + i + c ∧ h + i + c < h + c + min len (c - h) := by omega
    simp only [if_neg e1, if_neg e2, if_neg e3, if_pos e4, if_neg f1, if_neg f2, if_pos f3]
    exact ⟨by congr 1; omega, by congr 1; omega⟩
  · simp only [if_neg hw]
    have e1 : ¬ (c ≤ h + i - c ∧ h + i - c < c + (len - min len (c - h))) := by omega
    have e2 : h + i - c < len - min len (c - h) := by omega
    have f1 : c ≤ h + i - c + c ∧ h + i - c + c < c + (len - min len (c - h)) := by omega
    simp only [if_neg e1, if_pos e2, if_pos f1]
    exact ⟨by congr 1; omega, by congr 1; omega⟩

/-- A split write leaves every other offset alone (R204). -/
theorem ringAppend_read_other (ring pkt : Memory) {c h src len x : Nat} (hh : h < c) (hlen : len ≤ c)
    (hx : ∀ i < len, x ≠ (h + i) % c ∧ x ≠ (h + i) % c + c) :
    (ringAppend ring pkt c h src len).read x = ring.read x := by
  have pos : ∀ i < len, (h + i < c → x ≠ h + i ∧ x ≠ h + i + c) ∧ (c ≤ h + i → x ≠ h + i - c ∧ x ≠ h + i) := by
    intro i hi
    refine ⟨fun hw => ?_, fun hw => ?_⟩
    · have := hx i hi
      rwa [Nat.mod_eq_of_lt hw] at this
    · have := hx i hi
      rw [Nat.mod_eq_sub_mod hw, Nat.mod_eq_of_lt (by omega)] at this
      exact ⟨this.1, by omega⟩
  rw [ringAppend_read, if_neg, if_neg, if_neg, if_neg]
  · intro h4
    exact ((pos (x - h) (by omega)).1 (by omega)).1 (by omega)
  · intro h3
    exact ((pos (x - (h + c)) (by omega)).1 (by omega)).2 (by omega)
  · intro h2
    exact ((pos (x + c - h) (by omega)).2 (by omega)).1 (by omega)
  · intro h1
    exact ((pos (x - h) (by omega)).2 (by omega)).2 (by omega)

/-- A split write inside live storage keeps the canonical form. -/
theorem ringAppend_wf {size : Nat} {ring : Memory} (pkt : Memory) {c h src len : Nat} (hw : ring.wf size) (hh : h < c)
    (hlen : len ≤ c) (hc : 2 * c ≤ size) : (ringAppend ring pkt c h src len).wf size := by
  refine Memory.wf_writeMirrored (Memory.wf_writeMirrored hw _ _ _ ?_) _ _ _ ?_ <;>
    simp only [Memory.readRun_length] <;> omega

end Sys2Proof.Machine
end

