-- ==== Sys2Proof/Laws/Run.lean ====
section
/-! SUPPORT. Runs of the machine, one step at a time. -/

namespace Sys2Proof.Machine

/-- One more step of a run, for any machine. -/
theorem run_succ_any (M : Host.Core) (n : Nat) (s : M.State) :
    M.run (n + 1) s = match M.step s with
      | .next t => M.run n t
      | .fault f => .fault f
      | .refused r => .refused r := rfl

/-- A run of no step. -/
@[simp] theorem run_zero (s : State) : Host.Core.run Sys2Proof.core 0 s = .next s := rfl

/-- A run goes on from the state its first step answers. -/
theorem run_of_step {s t : State} (h : step s = .next t) (n : Nat) :
    Host.Core.run Sys2Proof.core (n + 1) s = Host.Core.run Sys2Proof.core n t := by
  have e := run_succ_any Sys2Proof.core n s
  rw [show Sys2Proof.core.step s = .next t from h] at e
  exact e

/-- A run stops with the fault its first step stops with. -/
theorem run_of_fault {s : State} {f : Fault} (h : step s = .fault f) (n : Nat) :
    Host.Core.run Sys2Proof.core (n + 1) s = .fault f := by
  have e := run_succ_any Sys2Proof.core n s
  rw [show Sys2Proof.core.step s = .fault f from h] at e
  exact e

/-- A run stops with the refusal its first step stops with. -/
theorem run_of_refused {s : State} {r : Refusal} (h : step s = .refused r) (n : Nat) :
    Host.Core.run Sys2Proof.core (n + 1) s = .refused r := by
  have e := run_succ_any Sys2Proof.core n s
  rw [show Sys2Proof.core.step s = .refused r from h] at e
  exact e

/-- A run that goes through goes through its first step. -/
theorem run_next_cases {n : Nat} {s t : State} (h : Host.Core.run Sys2Proof.core (n + 1) s = .next t) :
    ∃ u, step s = .next u ∧ Host.Core.run Sys2Proof.core n u = .next t := by
  cases hs : step s with
  | next u => exact ⟨u, rfl, (run_of_step hs n).symm.trans h⟩
  | fault f => cases (run_of_fault hs n).symm.trans h
  | refused r => cases (run_of_refused hs n).symm.trans h

/-- A run of one step answers what the step answers. -/
theorem run_one (s : State) : Host.Core.run Sys2Proof.core 1 s = step s := by
  cases hs : step s with
  | next u => exact run_of_step hs 0
  | fault f => exact run_of_fault hs 0
  | refused r => exact run_of_refused hs 0

end Sys2Proof.Machine
end

