-- ==== Sys2Proof/Laws/Safety.lean ====
section
/-! SUPPORT. What the shared definitions of Sys2Proof/Safety.lean, Sys2Proof/Machine/Written.lean and
Sys2Proof/Machine/Receive.lean say, each said once. -/

namespace Sys2Proof.Safety

open Sys2Proof.Machine

/-- The bounds of the parameters (R8). -/
theorem paramsWf_iff (p : Config.Params) :
    paramsWf p = true ↔ 1436 ≤ p.capMax.toNat ∧ p.capMax.toNat < 2 ^ 31 ∧ 21 ≤ p.srNotFound.toNat := by
  simp only [paramsWf, capMaxLowOk, capMaxHighOk, srNotFoundOk, Bool.and_eq_true, decide_eq_true_eq, and_assoc]

/-- Two registers that look alike are both written or both unwritten, and hold one value when written. -/
theorem forgetReg_eq {w : Nat} {a b : Reg w} (h : forgetReg a = forgetReg b) :
    a.written = b.written ∧ (a.written = true → a = b) := by
  unfold forgetReg at h
  cases ha : a.written <;> cases hb : b.written <;> simp [ha, hb] at h ⊢
  · rw [← h] at hb
    simp [Reg.unwritten] at hb
  · rw [h] at ha
    simp [Reg.unwritten] at ha
  · exact h

@[simp] theorem forgetReg_of {w : Nat} (v : BitVec w) : forgetReg (Reg.of v) = Reg.of v := rfl

@[simp] theorem unwrittenAt_setBus (s : State) (es : List HostEvent) (t : Target) :
    unwrittenAt (s.setBus es) t = unwrittenAt s t := by
  cases t with
  | reg r => cases r <;> rfl
  | _ => rfl

@[simp] theorem commandReads_setBus (s : State) (es : List HostEvent) (i : Instr) :
    commandReads (s.setBus es) i = commandReads s i := by
  cases i <;> rfl

@[simp] theorem operandA_setBus (s : State) (es : List HostEvent) : operandA (s.setBus es) = operandA s := rfl
@[simp] theorem operandB_setBus (s : State) (es : List HostEvent) : operandB (s.setBus es) = operandB s := rfl
@[simp] theorem operandC_setBus (s : State) (es : List HostEvent) : operandC (s.setBus es) = operandC s := rfl

/-- A command of the host leaves the state it answers. -/
theorem hostCommand_of_exec {i : Instr} {s t : State} (h : exec i s = .next t) : hostCommand i s = t := by
  simp only [hostCommand, h]

/-- The drain loop stops when fewer than k bytes are stored (R293). -/
theorem drainLoop_stop (k : Word) (fuel : Nat) (s : State) (h : s.rb.count.toNat < k.toNat) :
    drainLoop k (fuel + 1) s = ({ s with status := .of 0, res0 := .of s.rb.count }, []) := if_pos h

/-- Otherwise it hands off one chunk, consumes it and goes round again (R293). -/
theorem drainLoop_round (k : Word) (fuel : Nat) (s : State) (h : k.toNat ≤ s.rb.count.toNat) :
    drainLoop k (fuel + 1) s =
      let region := hostCommand .rbRegion (hostCommand .rbCount s)
      let r := drainLoop k fuel (hostCommand .rbConsume (region.setOpa k))
      (r.1, (region.res0.val.toNat, k.toNat) :: r.2) := if_neg (Nat.not_lt.2 h)

/-- A run's history goes on from its first step's. -/
theorem historyRun_of_step {s t : State} (h : step s = .next t) (n : Nat) (g : History) :
    historyRun (n + 1) s g = historyRun n t (historyStep s g) := by
  simp only [historyRun, h]

end Sys2Proof.Safety
end

