-- ==== Sys2Proof/Tests/Slice0.lean ====
section
/-! SUPPORT. The model's own tests. Every expected value is taken from spec/95_test_vectors.md, from an example of a
rule of spec/41_codec.md or spec/42_ring.md, or computed by hand from the rule named; then one witness per obligation
with hypotheses. -/

namespace Sys2Proof.Tests

open Sys2Proof Sys2Proof.Machine Sys2Proof.Safety Sys2Proof.Claims

/-! ### Helpers -/

/-- What a test looks at in the next state an outcome answers. -/
def answer {α φ ρ : Type} (o : Host.Outcome State φ ρ) (f : State → α) : Option α :=
  match o with
  | .next t => some (f t)
  | .fault _ | .refused _ => none

/-- The fault an outcome stops with. -/
def faultOf {σ φ ρ : Type} (o : Host.Outcome σ φ ρ) : Option φ :=
  match o with
  | .fault f => some f
  | .next _ | .refused _ => none

/-- The state an outcome answers, or the given one. -/
def nextOr (s : State) (o : Host.Outcome State Fault Refusal) : State :=
  match o with
  | .next t => t
  | .fault _ | .refused _ => s

/-- Reset's state with the three operands written. -/
def operands (a b c : Word) : State := { State.reset with opa := .of a, opb := .of b, opc := .of c }

/-- The 28 header bytes of packet Q (spec/95_test_vectors.md section 2.4). -/
def headerQ : List Byte :=
  [0x56, 0x42, 0x41, 0x4E, 0x03, 0x03, 0x01, 0x01] ++ [0x53, 0x74, 0x72, 0x65, 0x61, 0x6D, 0x31, 0x00] ++
  [0x00, 0x00, 0x00, 0x00, 0x00, 0x00, 0x00, 0x00] ++ [0x04, 0x03, 0x02, 0x01]

/-- PKT holding packet Q's header, and OPA its length. -/
def packetQ (len : Word) : State := { operands len 0 0 with pkt := (Memory.drawn 0).writeRun 0 headerQ }

/-- Packet Q with one byte of PKT changed. -/
def packetQWith (len : Word) (a : Nat) (b : Byte) : State := { packetQ len with pkt := (packetQ len).pkt.write a b }

/-- The name "TestStream1", null-padded. -/
def testStream1 : Vector Byte 16 :=
  #v[0x54, 0x65, 0x73, 0x74, 0x53, 0x74, 0x72, 0x65, 0x61, 0x6D, 0x31, 0, 0, 0, 0, 0]

/-- The ring registers as a list. -/
def cursors (s : State) : List Nat := [s.rb.cap.toNat, s.rb.head.toNat, s.rb.tail.toNat, s.rb.count.toNat]

/-- The three results. -/
def results (s : State) : List Nat := [s.res0.val.toNat, s.res1.val.toNat, s.res2.val.toNat]

/-- The state at step 4 of P2-pre (section 2.7) before its write: C = 8, head 5, tail 3, count 2, "ABCDE" in RING and
"FGHI" at PKT[33..36]. -/
def ring8 : State :=
  { operands 33 4 0 with
    rb := { cap := 8, head := 5, tail := 3, count := 2 },
    pkt := (Memory.drawn 0).writeRun 33 [0x46, 0x47, 0x48, 0x49],
    ring := ((Memory.drawn 1).writeRun 0 [0x41, 0x42, 0x43, 0x44, 0x45]).writeRun 8 [0x41, 0x42, 0x43, 0x44, 0x45] }

/-- A full ring of C = 8 at tail 3 (section 2.7 step 6). -/
def full8 (n : Word) : State := { operands n 1 0 with rb := { cap := 8, head := 3, tail := 3, count := 8 } }

/-- A reset state whose next accesses are these. -/
def withBus (es : List HostEvent) : State := { State.reset with bus := es }

/-! ### Well-formedness: an ill-formed term for each check -/

theorem test_wf_mbz_refused : wordMbzOk 0x00000110 = false ∧ wordWf 0x00000110 = false := by decide
theorem test_wf_op_refused : wordOpOk 0x0000000F = false ∧ wordOpOk 0x0000001B = false ∧ wordOpOk 0x0000002A = false := by
  decide
theorem test_wf_width_refused : widthOk 2 = false ∧ widthOk 0 = false ∧ widthOk 8 = false := by decide
theorem test_wf_capmax_low_refused : capMaxLowOk { defaultParams with capMax := 1435 } = false := by decide
theorem test_wf_capmax_high_refused : capMaxHighOk { defaultParams with capMax := 0x80000000 } = false := by decide
theorem test_wf_sentinel_refused : srNotFoundOk { defaultParams with srNotFound := 20 } = false := by decide
theorem test_wf_default_params : paramsWf defaultParams = true := by decide
theorem test_wf_instr : Instr.rbWrite.wf = true ∧ wordWf 0x00000022 = true := by decide

/-! ### Decoding: every row's word written out from R102 and R107 -/

theorem test_decode_codec_words :
    [0x10, 0x11, 0x12, 0x13, 0x14, 0x15, 0x16, 0x17, 0x18, 0x19, 0x1A].map (decodeTableWord 32) =
    [Instr.hdrDecode, .hdrEncode, .packSrsp, .packFmt, .unpackSrsp, .unpackFmt, .srToHz, .hzToSr, .dtSize, .expectLen,
      .rxClassify].map some := by decide

theorem test_decode_ring_words :
    [0x20, 0x21, 0x22, 0x23, 0x24, 0x25, 0x26, 0x27, 0x28, 0x29].map (decodeTableWord 32) =
    [Instr.rbInit, .rbDeinit, .rbWrite, .rbRegion, .rbConsume, .rbCount, .rbCapacity, .rbFree, .rbEmpty, .rbFull].map
      some := by decide

/-- Section 2.6: the illegal words. -/
theorem test_decode_illegal_words :
    [0x0, 0x0F, 0x1B, 0x1F, 0x2A, 0xFF, 0x110, 0x80000025].map (decodeTableWord 32) = List.replicate 8 none := by decide

theorem test_fetch_word_runs :
    answer (step (State.reset.withFetchWord 32 0x28)) (fun t => (t.status.val, t.res0.val, t.bus)) = some (0, 1, []) := by
  decide

/-! ### Codec commands (sections 2.1 to 2.4) -/

theorem test_pack_srsp :
    answer (exec .packSrsp (operands 14 1 0)) (fun t => (t.status.val, t.hdr.srsp.val, t.res0.val)) = some (0, 0x2E, 0x2E) := by
  decide
theorem test_pack_srsp_out_of_range :
    answer (exec .packSrsp (operands 32 0 0)) (fun t => (t.status.val, t.hdr.srsp.written)) = some (1, false) := by decide

theorem test_pack_fmt :
    answer (exec .packFmt (operands 5 1 15)) (fun t => (t.status.val, t.hdr.fmt.val, t.res0.val)) = some (0, 0xFD, 0xFD) := by
  decide
theorem test_pack_fmt_out_of_range :
    answer (exec .packFmt (operands 0 0 16)) (fun t => (t.status.val, t.res0.written)) = some (1, false) := by decide

theorem test_unpack_srsp :
    answer (exec .unpackSrsp { State.reset with hdr := { Header.unwritten with srsp := .of 0x45 } })
      (fun t => (t.status.val, t.res0.val, t.res1.val)) = some (0, 5, 2) := by decide

theorem test_unpack_fmt :
    answer (exec .unpackFmt { State.reset with hdr := { Header.unwritten with fmt := .of 0x1A } }) results =
    some [2, 1, 1] := by decide

theorem test_sr_to_hz : answer (exec .srToHz (operands 20 0 0)) (fun t => t.res0.val) = some 705600 := by decide
theorem test_sr_to_hz_undefined : answer (exec .srToHz (operands 21 0 0)) (fun t => t.res0.val) = some 0 := by decide

theorem test_hz_to_sr : answer (exec .hzToSr (operands 44100 0 0)) (fun t => t.res0.val) = some 16 := by decide
theorem test_hz_to_sr_zero_not_found : answer (exec .hzToSr (operands 0 0 0)) (fun t => t.res0.val) = some 21 := by decide

theorem test_dt_size : [0, 1, 2, 3, 4, 5, 6, 7, 8].map (fun d => answer (exec .dtSize (operands d 0 0)) fun t => t.res0.val) =
    [1, 2, 3, 4, 4, 8, 0, 0, 0].map some := by decide

theorem test_expect_len_largest :
    answer (exec .expectLen { State.reset with
      hdr := { Header.unwritten with nbs := .of 255, nbc := .of 255, fmt := .of 0x05, plen := .of 1436 } })
      (fun t => (t.res0.val, t.res1.val)) = some (524288, 1) := by decide

theorem test_hdr_decode :
    answer (exec .hdrDecode (packetQ 44)) (fun t => (t.status.val, t.res0.val, t.res1.val, t.hdr.frame.val, t.hdr.name[6].val)) =
    some (0, 28, 16, 0x01020304, 0x31) := by decide
theorem test_hdr_decode_failures :
    ([packetQ 1465, packetQ 27, packetQWith 44 0 0x76].map fun s => answer (exec .hdrDecode s) fun t => (t.status.val, t.hdr.srsp.written)) =
    [(1, false), (5, false), (6, false)].map some := by decide

/-- The header of packet Q encoded from the registers a decode of it loads (R141's example). -/
theorem test_hdr_encode :
    answer (exec .hdrEncode { operands 16 0 0 with hdr := decodedHeader (packetQ 44).pkt Header.unwritten 44 })
      (fun t => (t.res0.val, t.hdr.plen.val, t.pkt.readRun 0 28)) = some (44, 16, headerQ) := by decide
theorem test_hdr_encode_too_large :
    answer (exec .hdrEncode (operands 1437 0 0)) (fun t => (t.status.val, t.pkt.cells.length)) = some (7, 0) := by decide

theorem test_rx_classify_filters :
    ([packetQ 44, packetQWith 44 4 0x23, packetQWith 44 7 0x11, packetQWith 44 5 7, packetQWith 44 0 0x76, packetQ 20].map fun s =>
      answer (exec .rxClassify s) results) =
    [[0, 16, 0], [4, 16, 0], [5, 16, 0], [0, 32, 1], [2, 0, 0], [1, 0, 0]].map some := by decide
theorem test_rx_classify_name_first :
    answer (exec .rxClassify { packetQWith 44 4 0x23 with expName := testStream1 }) (fun t => t.res0.val) = some 3 := by decide

/-! ### Ring commands (section 2.7) -/

theorem test_rb_init : answer (exec .rbInit (full8 1436)) cursors = some [1436, 0, 0, 0] := by decide
theorem test_rb_init_failures :
    ([operands 0 0 0, operands 1437 0 0].map fun s => answer (exec .rbInit s) fun t => t.status.val) = [1, 2].map some := by
  decide

theorem test_rb_deinit : answer (exec .rbDeinit ring8) cursors = some [0, 0, 0, 0] := by decide

/-- Step 4: the write wraps; "I" lands at 0 and 8. -/
theorem test_rb_write_wraps :
    answer (exec .rbWrite ring8) (fun t => (cursors t, t.ring.readRun 0 16)) =
    some ([8, 1, 3, 6], [0x49, 0x42, 0x43, 0x44, 0x45, 0x46, 0x47, 0x48] ++ [0x49, 0x42, 0x43, 0x44, 0x45, 0x46, 0x47, 0x48]) := by
  decide
/-- Steps 11 and 9 and the full ring: the range check does not wrap and comes before the free space. -/
theorem test_rb_write_failures :
    ([{ ring8 with opa := .of 0xFFFFFFFF, opb := .of 2 }, { full8 1460 with opb := .of 5 }, full8 28,
      { full8 0xFFFFFFFF with opb := .of 0 }].map fun s => answer (exec .rbWrite s) fun t => (t.status.val, t.rb == s.rb)) =
    [(1, true), (1, true), (3, true), (0, true)].map some := by decide

theorem test_rb_region : answer (exec .rbRegion (full8 0)) results = some [3, 8, 1] := by decide
theorem test_rb_region_null : answer (exec .rbRegion (operands 0 0 0)) results = some [0, 0, 0] := by decide

theorem test_rb_consume : answer (exec .rbConsume (full8 8)) cursors = some [8, 3, 3, 0] := by decide
theorem test_rb_consume_too_much :
    answer (exec .rbConsume (full8 9)) (fun t => (t.status.val, cursors t)) = some (4, [8, 3, 3, 8]) := by decide

theorem test_rb_count : answer (exec .rbCount ring8) (fun t => t.res0.val) = some 2 := by decide
theorem test_rb_capacity : answer (exec .rbCapacity ring8) (fun t => t.res0.val) = some 8 := by decide
theorem test_rb_free : answer (exec .rbFree ring8) (fun t => t.res0.val) = some 6 := by decide
theorem test_rb_empty : answer (exec .rbEmpty ring8) (fun t => t.res0.val) = some 0 := by decide
theorem test_rb_full : answer (exec .rbFull (full8 0)) (fun t => t.res0.val) = some 1 := by decide
/-- "false-full" on an uninitialised ring (R213). -/
theorem test_rb_full_uninitialised : answer (exec .rbFull (operands 0 0 0)) (fun t => t.res0.val) = some 0 := by decide

/-! ### The bus -/

/-- A byte register drops bits [31:8] (R26, R69). -/
theorem test_bus_byte_register :
    answer (step (withBus [.access .producer (.write 0x20 4 0xFFFFFF45)])) (fun t => t.hdr.srsp) = some (.of 0x45) := by decide

/-- A misaligned word, a word to a byte array, a read of CMD and a write of STATUS are bus faults (R66, R68). -/
theorem test_bus_faults :
    ([.read 0x06 4, .read 0x1000 4, .read 0 4, .write 0x10 4 0, .read 0x10000 1].map fun a =>
      faultOf (step (withBus [.access .consumer a]))) =
    [Fault.busFault .consumer 0x06 4 .read, .busFault .consumer 0x1000 4 .read, .busFault .consumer 0 4 .read,
      .busFault .consumer 0x10 4 .write, .busFault .consumer 0x10000 1 .read].map some := by decide

/-- The last live byte of RING answers, the next one is a bus fault (R68). -/
theorem test_bus_ring_end :
    answer (step { ring8 with bus := [.access .consumer (.read 0x1000C 1)] }) (fun t => t.replies.map Reply.val) = some [0x45] ∧
    faultOf (step { ring8 with bus := [.access .consumer (.read 0x10010 1)] }) =
      some (.busFault .consumer 0x10010 1 .read) := by decide

/-- Reset leaves the ring uninitialised and the operands unwritten (R38, R290). -/
theorem test_platform_reset :
    answer (step { ring8 with bus := [.reset] }) (fun t => (cursors t, t.opa.written, t.pkt.cells.length)) =
    some ([0, 0, 0, 0], false, 0) := by decide

/-- UNPACK_SRSP right after reset is ReadUnwritten for the strict step (R37, section 2.1). -/
theorem test_strict_read_unwritten :
    faultOf (strictStep (State.reset.withFetchWord 32 0x14)) = some (.readUnwritten (.reg .hdrSrsp)) := by decide

/-- The pseudo-instruction PACKSR 3, 0 of program P1 step 1 (R106). -/
theorem test_packsr_script :
    scriptEvents defaultParams (expandPseudo (.packsr 3 0)) =
    [.access .producer (.write 4 4 3), .access .producer (.write 8 4 0), .access .producer (.write 0 4 0x12)] := by decide

/-- SETB past the end of HDR_NAME runs by its address: HDR_NAME[15..16] writes the last name byte and CFG_EXPNAME[0] (the
model's choice, log entry 31; the offsets are R63's). -/
theorem test_setb_past_the_end :
    stmtEvents defaultParams (.setb .hdrName 15 [0x41, 0x42]) =
      [.access .producer (.write 0x4F 1 0x41), .access .producer (.write 0x50 1 0x42)] ∧
    busTarget defaultParams 0x50 1 = some (.expName 0) := by decide

/-- SET CMD writes an illegal command word, whose status is 8 (section 2.6, R263); GET CMD is a bus fault (R22). -/
theorem test_set_cmd_script :
    answer (step (loadScript State.reset [.setCmd 0x80000025])) (fun t => (t.status, t.res0.written)) = some (.of 8, false) ∧
    faultOf (step (loadScript State.reset [.getCmd .producer])) = some (.busFault .producer 0 4 .read) := by decide

/-- One chunk of 4 bytes of the full ring is handed off, then one more (R293). -/
theorem test_drain_loop :
    (drainLoop 4 9 (full8 0)).2 = [(3, 4), (7, 4)] ∧ cursors (drainLoop 4 9 (full8 0)).1 = [8, 3, 3, 0] := by decide

/-- A datagram that is too short hands off nothing (R293). -/
theorem test_receive_drops : (receiveDatagram 20 4 (full8 0)).2 = [] := by decide

/-! ### Witnesses: states that meet the hypotheses of each obligation that has some -/

/-- Five bytes "ABCDE" taken by a ring of C = 4 and three of them consumed: head 1, tail 3, count 2, "BC" stale.
OPA and OPB are a write of one byte, PKT[28] = "F". -/
def ring4 : State :=
  { operands 28 1 0 with
    rb := { cap := 4, head := 1, tail := 3, count := 2 },
    pkt := (Memory.drawn 0).writeRun 28 [0x46],
    ring := (Memory.drawn 1).writeRun 0 [0x45, 0x42, 0x43, 0x44, 0x45, 0x42, 0x43, 0x44] }

/-- The history of `ring4`. -/
def history4 : History := { written := [0x41, 0x42, 0x43, 0x44, 0x45], consumed := 3, epoch := 0 }

/-- The producer's CMD write of a command at the head of the bus. -/
def withCommand (i : Instr) (s : State) : State := { s with bus := [.access .producer (.write 0 4 (encode i))] }

/-- The consumer's read of RING[0], where byte 0 of the history has been overwritten by byte 4 (R311): the live chunk
alone reads on; beside the overwritten one, or after an RB_DEINIT has also made the offset dead, the checked step stops
with ChunkOverwritten (log entries 26 and 27). -/
theorem test_chunk_faults :
    let s := { ring4 with bus := [.access .consumer (.read 0x10000 1)] }
    let dead := { s with rb := { cap := 0, head := 0, tail := 0, count := 0 } }
    let lost : Chunk := { off := 0, len := 1, start := 0, epoch := 0 }
    let live : Chunk := { off := 0, len := 1, start := 4, epoch := 0 }
    answer (checkedStep history4 [live] s) (fun t => t.replies.map (·.val)) = some [0x45] ∧
    faultOf (checkedStep history4 [lost, live] s) = some (.chunkOverwritten 0) ∧
    faultOf (checkedStep (.fresh 1) [live] dead) = some (.chunkOverwritten 0) ∧
    faultOf (checkedStep (.fresh 1) [] dead) = some (.machine (.busFault .consumer 0x10000 1 .read)) := by decide

/-- What a step of the machine leaves of a state. -/
def stepped (s : State) : State := nextOr s (step s)

theorem ring4_inv_idle : Inv ring4 :=
  { ringRegs := by simp [ringRegsInv, ring4, operands, State.reset, defaultParams, defaultCapMax]
    params := by decide
    status := by decide
    pkt := by decide
    ring := by decide }

theorem ring4_history_idle : HoldsHistory ring4 history4 := by
  refine ⟨fun h => absurd h (by decide), by decide, fun _ => by decide, fun _ => by decide, fun i b hb hi => ?_⟩
  have hlt : i < 5 := (List.getElem?_eq_some_iff.1 hb).1
  change 5 ≤ i + 4 at hi
  have hcases : i = 1 ∨ i = 2 ∨ i = 3 ∨ i = 4 := by omega
  rcases hcases with rfl | rfl | rfl | rfl <;> (injection hb with hb; subst hb; decide)

/-- The invariant does not read the bus. -/
theorem ring4_inv (es : List HostEvent) : Inv { ring4 with bus := es } :=
  ⟨ring4_inv_idle.ringRegs, ring4_inv_idle.params, ring4_inv_idle.status, ring4_inv_idle.pkt, ring4_inv_idle.ring⟩

/-- The history does not read the bus. -/
theorem ring4_history (es : List HostEvent) : HoldsHistory { ring4 with bus := es } history4 :=
  ⟨ring4_history_idle.uninit, ring4_history_idle.consumed, ring4_history_idle.head, ring4_history_idle.tail,
    ring4_history_idle.bytes⟩

theorem witness_WrittenCommandWordRuns :
    (withCommand .rbFull ring4).bus = .access .producer (.write (withCommand .rbFull ring4).params.base 4 0x29) :: [] ∧
    decode 0x29 = .ok .rbFull ∧ Instr.rbFull.wf = true ∧
    (withBus [.access .consumer (.read 0 1)]).bus = .access .consumer (.read State.reset.params.base 1) :: [] :=
  ⟨rfl, rfl, rfl, rfl⟩

theorem witness_IllegalWordSetsOnlyStatus :
    (withBus [.access .producer (.write 0 4 0x110)]).bus = .access .producer (.write State.reset.params.base 4 0x110) :: [] ∧
    (∀ w ∈ [0x110#32, 0x0F#32, 0x1B#32, 0x1F#32, 0x2A#32], ¬ (w.toNat / 256 = 0 ∧
      (0x10 ≤ w.toNat % 256 ∧ w.toNat % 256 ≤ 0x1A ∨ 0x20 ≤ w.toNat % 256 ∧ w.toNat % 256 ≤ 0x29))) :=
  ⟨rfl, fun w hw => by
    simp only [List.mem_cons, List.not_mem_nil, or_false] at hw
    rcases hw with rfl | rfl | rfl | rfl | rfl <;> decide⟩

theorem witness_PlatformResetRestoresTheResetState :
    ({ ring8 with bus := [.reset] } : State).bus = .reset :: [] := rfl

/-- A step that writes the ring, from a state that meets the invariant and holds a history. -/
theorem witness_EveryStepKeepsTheInvariant :
    Inv (withCommand .rbWrite ring4) ∧ HoldsHistory (withCommand .rbWrite ring4) history4 ∧
    step (withCommand .rbWrite ring4) = .next (stepped (withCommand .rbWrite ring4)) ∧
    (stepped (withCommand .rbWrite ring4)).rb.count = 3 :=
  ⟨ring4_inv _, ring4_history _, rfl, by decide⟩

theorem witness_EveryStepKeepsTheRingsHistory :
    Inv (withCommand .rbConsume { ring4 with opa := .of 2 }) ∧
    HoldsHistory (withCommand .rbConsume ring4) history4 ∧
    step (withCommand .rbInit ring4) = .next (stepped (withCommand .rbInit ring4)) :=
  ⟨⟨(ring4_inv []).ringRegs, (ring4_inv []).params, (ring4_inv []).status, (ring4_inv []).pkt, (ring4_inv []).ring⟩,
    ring4_history _, rfl⟩

theorem witness_EveryRunKeepsTheRingAFifo :
    Inv (withCommand .rbWrite ring4) ∧ HoldsHistory (withCommand .rbWrite ring4) history4 ∧
    Host.Core.run Sys2Proof.core 1 (withCommand .rbWrite ring4) = .next (stepped (withCommand .rbWrite ring4)) ∧
    (stepped (withCommand .rbWrite ring4)).rb.cap ≠ 0 :=
  ⟨ring4_inv _, ring4_history _, run_one _, by decide⟩

theorem witness_WrittenRegistersStayWritten :
    (withCommand .rbFull ring4).bus.head? ≠ some .reset ∧
    step (withCommand .rbFull ring4) = .next (stepped (withCommand .rbFull ring4)) ∧
    unwrittenAt (withCommand .rbFull ring4) (.reg .opa) = false :=
  ⟨by decide, rfl, rfl⟩

/-- Two reset states that differ in what the unwritten OPB holds, and a write of OPA. -/
theorem witness_UnwrittenValuesAreNotObservable :
    let s := withBus [.access .producer (.write 4 4 5)]
    let u := { s with opb := { val := 7, written := false } }
    s ≠ u ∧ forget s = forget u ∧ s.bus = .access .producer (.write 4 4 5) :: [] ∧
    firstUnwritten s (.access .producer (.write 4 4 5)) = none :=
  ⟨by decide, rfl, rfl, rfl⟩

theorem witness_ParametersNeverChange :
    step (withCommand .rbDeinit ring4) = .next (stepped (withCommand .rbDeinit ring4)) := rfl

theorem witness_IdleBlockKeepsItsState : ring4.bus = [] := rfl

theorem witness_FailingCommandWritesOnlyStatus :
    exec .rbConsume ring4 = .next (nextOr ring4 (exec .rbConsume ring4)) ∧
    (nextOr ring4 (exec .rbConsume ring4)).status.val ≠ 0 := ⟨rfl, by decide⟩

/-- A command for each clause: a codec command that writes no packet, and a query of the ring. -/
theorem witness_CommandsTouchOnlyTheirOwnState :
    exec .hdrDecode (packetQ 44) = .next (nextOr ring4 (exec .hdrDecode (packetQ 44))) ∧ Instr.hdrDecode ∉ ringCommands ∧
    exec .rbCount ring4 = .next (nextOr ring4 (exec .rbCount ring4)) ∧ Instr.rbCount ∈ ringCommands ∧
    Instr.hdrDecode ≠ .hdrEncode ∧ Instr.rbCount ≠ .rbWrite ∧ Instr.rbCount ≠ .rbInit :=
  ⟨rfl, by decide, rfl, by decide, by decide, by decide, by decide⟩

/-- The largest operands of each field and the byte they pack to, held by another state (clauses 1 and 2); the byte 0xFF
unpacked, and its fields as another state's operands, whose header register holds another byte (clauses 3 and 4). -/
theorem witness_PackAndUnpackAreInverses :
    let ones : State := { State.reset with hdr := { Header.unwritten with srsp := .of 0xFF, fmt := .of 0xFF } }
    let fields (s : State) := (s.res0.val, s.res1.val, s.res2.val)
    ((operands 31 7 0).opa.val.toNat < 32 ∧ (operands 31 7 0).opb.val.toNat < 8 ∧
      answer (exec .packSrsp (operands 31 7 0)) (fun t => t.hdr.srsp.val) = some ones.hdr.srsp.val) ∧
    ((operands 7 1 15).opa.val.toNat < 8 ∧ (operands 7 1 15).opb.val.toNat < 2 ∧ (operands 7 1 15).opc.val.toNat < 16 ∧
      answer (exec .packFmt (operands 7 1 15)) (fun t => t.hdr.fmt.val) = some ones.hdr.fmt.val) ∧
    (answer (exec .unpackSrsp ones) (fun t => (t.res0.val, t.res1.val)) =
        some ((operands 31 7 0).opa.val, (operands 31 7 0).opb.val) ∧
      (operands 31 7 0).hdr.srsp.val ≠ ones.hdr.srsp.val) ∧
    (answer (exec .unpackFmt ones) fields =
        some ((operands 7 1 15).opa.val, (operands 7 1 15).opb.val, (operands 7 1 15).opc.val) ∧
      (operands 7 1 15).hdr.fmt.val ≠ ones.hdr.fmt.val) := by
  decide

/-- The last defined rate, and a rate that is none. -/
theorem witness_HzToSrFollowsItsRule :
    rates[20]? = some (operands 705600 0 0).opa.val.toNat ∧ (operands 48001 0 0).opa.val.toNat ∉ rates := by decide

/-- The largest payload length, and a packet that decodes. -/
theorem witness_EncodeAndDecodeRoundTrip :
    (operands 1436 0 0).opa.val.toNat ≤ 1436 ∧
    exec .hdrDecode (packetQ 28) = .next (nextOr ring4 (exec .hdrDecode (packetQ 28))) ∧
    (nextOr ring4 (exec .hdrDecode (packetQ 28))).status.val = 0 := ⟨by decide, rfl, by decide⟩

/-- The lengths on both sides of each test: short, and accepted. -/
theorem witness_ClassifyAgreesWithDecode :
    (packetQ 1464).opa.val.toNat ≤ 1464 ∧ (packetQ 1464).expName[15] = 0 ∧
    answer (exec .rxClassify (packetQ 27)) (fun t => t.res0.val) = some 1 ∧
    answer (exec .rxClassify (packetQWith 28 0 0x76)) (fun t => t.res0.val) = some 2 ∧
    answer (exec .rxClassify (packetQ 28)) (fun t => t.res0.val) = some 0 := by decide

/-- A sixteenth name byte of 0x50 and an expected name. -/
theorem witness_SixteenByteNameNeverMatches :
    let s := { packetQWith 28 23 0x50 with expName := testStream1 }
    28 ≤ s.opa.val.toNat ∧ s.opa.val.toNat ≤ 1464 ∧ s.expName[15] = 0 ∧ s.expName[0] ≠ 0 ∧
    wireMagic s.pkt = s.params.magic.toNat ∧ s.pkt.read 23 ≠ 0 := by decide

/-- The initialised and the uninitialised ring, and the first offset of RING. -/
theorem witness_RbDeinitFollowsItsRule :
    State.reset.rb = { cap := 0, head := 0, tail := 0, count := 0 } ∧
    0x10000 ≤ ((0x10000 : Word) - ring4.params.base).toNat := by decide

/-- A write that wraps and fills the ring. -/
theorem witness_RbWriteIsTheModularMirroredWrite :
    let s := { ring4 with rb := { cap := 4, head := 3, tail := 1, count := 2 }, opb := .of 2 }
    Inv s ∧ 0 < s.opb.val.toNat ∧ s.opa.val.toNat + s.opb.val.toNat ≤ 1464 ∧ s.opb.val.toNat ≤ s.rb.cap.toNat - s.rb.count.toNat := by
  refine ⟨⟨?_, (ring4_inv []).params, (ring4_inv []).status, (ring4_inv []).pkt, (ring4_inv []).ring⟩, by decide, by decide,
    by decide⟩
  simp [ringRegsInv, ring4, operands, State.reset, defaultParams, defaultCapMax]

theorem witness_RegionIsContiguousOldestFirst : Inv ring4 ∧ HoldsHistory ring4 history4 ∧ ring4.rb.count ≠ 0 :=
  ⟨ring4_inv [], ring4_history [], by decide⟩

theorem witness_UninitialisedRingOutcomes :
    let s := operands 1436 0 0
    s.rb = { cap := 0, head := 0, tail := 0, count := 0 } ∧ 0 < s.opa.val.toNat ∧ s.opa.val.toNat ≤ s.params.capMax.toNat := by
  decide

/-- One command for each clause: a consume, an RB_INIT that succeeds, a failing write. -/
theorem witness_RingCommandsPreserveTheRingInvariant :
    Instr.rbConsume ∈ ringCommands ∧ paramsWf ring4.params = true ∧ ringRegsInv ring4.params ring4.rb ∧
    exec .rbInit ring4 = .next (nextOr ring4 (exec .rbInit ring4)) ∧ (nextOr ring4 (exec .rbInit ring4)).status.val = 0 ∧
    exec .rbWrite { ring4 with opb := .of 3 } = .next (nextOr ring4 (exec .rbWrite { ring4 with opb := .of 3 })) ∧
    (nextOr ring4 (exec .rbWrite { ring4 with opb := .of 3 })).status.val ≠ 0 :=
  ⟨by decide, by decide, (ring4_inv []).ringRegs, rfl, by decide, rfl, by decide⟩

/-- An empty and a non-empty ring of 1436 bytes, with k = 1. -/
theorem witness_EnoughCapacityNeverDropsAPayload :
    let s := { operands 28 1436 0 with rb := { cap := 1436, head := 5, tail := 5, count := 0 } }
    let u := { s with rb := { cap := 1436, head := 6, tail := 5, count := 1 } }
    Inv s ∧ Inv u ∧ 1436 + 1 - 1 ≤ s.rb.cap.toNat ∧ s.rb.count.toNat < 1 ∧ s.opb.val.toNat ≤ 1436 ∧
    s.opa.val.toNat + s.opb.val.toNat ≤ 1464 ∧ u.rb.cap.toNat = 1436 ∧ u.opb.val.toNat = 1436 ∧ u.opa.val.toNat ≤ 28 := by
  refine ⟨⟨?_, by decide, by decide, Memory.wf_drawn _ _, Memory.wf_drawn _ _⟩,
    ⟨?_, by decide, by decide, Memory.wf_drawn _ _, Memory.wf_drawn _ _⟩, by decide, by decide, by decide, by decide, by decide,
    by decide, by decide⟩ <;>
    simp [ringRegsInv, operands, State.reset, defaultParams, defaultCapMax]

/-- Two whole chunks of one byte. -/
theorem witness_DrainLoopHandsOffEveryWholeChunk :
    Inv ring4 ∧ HoldsHistory ring4 history4 ∧ 1 ≤ (1 : Word).toNat ∧ ring4.rb.count.toNat / (1 : Word).toNat = 2 :=
  ⟨ring4_inv [], ring4_history [], by decide, by decide⟩

/-- The chunk (1, 2) of the stale bytes "BC" after one more byte is written: F = 2 and W = 1, so byte 1 is still safe
and byte 0 has been overwritten (R311). -/
theorem witness_ChunkLivesUntilOverwritten :
    let s := withCommand .rbWrite ring4
    Inv s ∧ HoldsHistory s history4 ∧ s.rb.cap ≠ 0 ∧ Host.Core.run Sys2Proof.core 1 s = .next (stepped s) ∧
    (historyRun 1 s history4).epoch = history4.epoch ∧ 2 ≤ history4.consumed ∧ s.rb.count.toNat + 2 ≤ s.rb.cap.toNat ∧
    (historyRun 1 s history4).written.length - history4.written.length = 1 ∧
    1 + 2 ≤ (s.rb.cap.toNat - s.rb.count.toNat) + 1 ∧ (s.rb.cap.toNat - s.rb.count.toNat) + 0 < 1 + 2 ∧
    1 + 2 ≤ (s.rb.cap.toNat - s.rb.count.toNat) + 0 + s.rb.cap.toNat :=
  ⟨ring4_inv _, ring4_history _, by decide, run_one _, by decide, by decide, by decide, by decide, by decide, by decide,
    by decide⟩

/-- A chunk whose bytes still stand, and one whose byte has been overwritten. -/
theorem witness_ConsumerReadsItsChunkOrFaults :
    let live : Chunk := { off := 1, len := 2, start := 1, epoch := 0 }
    let lost : Chunk := { off := 0, len := 1, start := 0, epoch := 0 }
    let s := { ring4 with bus := [.access .consumer (.read 0x10001 1)] }
    let u := { ring4 with bus := [.access .consumer (.read 0x10000 1)] }
    (Inv s ∧ HoldsHistory s history4 ∧ s.rb.cap ≠ 0 ∧ live.len ≤ s.rb.cap.toNat ∧ live.off = live.start % s.rb.cap.toNat ∧
      0 < live.len ∧ live.start + live.len ≤ history4.written.length ∧
      ((0x10001 : Word) - s.params.base).toNat = 0x10000 + live.off + 0 ∧ live.epoch = history4.epoch ∧
      history4.written.length ≤ live.start + 0 + s.rb.cap.toNat) ∧
    (Inv u ∧ HoldsHistory u history4 ∧ lost.len ≤ u.rb.cap.toNat ∧ lost.off = lost.start % u.rb.cap.toNat ∧ 0 < lost.len ∧
      lost.start + lost.len ≤ history4.written.length ∧ ((0x10000 : Word) - u.params.base).toNat = 0x10000 + lost.off + 0 ∧
      ¬ history4.written.length ≤ lost.start + 0 + u.rb.cap.toNat) :=
  ⟨⟨ring4_inv _, ring4_history _, by decide, by decide, by decide, by decide, by decide, by decide, by decide, by decide⟩,
    ⟨ring4_inv _, ring4_history _, by decide, by decide, by decide, by decide, by decide, by decide⟩⟩

/-- The last readable word, the last live byte of RING, and the first dead one. -/
theorem witness_HostReadAnswersOrFaults :
    (withBus [.access .consumer (.read 0x74 4)]).bus = .access .consumer (.read 0x74 4) :: [] ∧
    answer (step (withBus [.access .consumer (.read 0x74 4)])) (fun t => t.replies.length) = some 1 ∧
    answer (step { ring4 with bus := [.access .consumer (.read 0x10007 1)] }) (fun t => t.replies.length) = some 1 ∧
    faultOf (step { ring4 with bus := [.access .consumer (.read 0x10008 1)] }) = some (.busFault .consumer 0x10008 1 .read) :=
  ⟨rfl, by decide, by decide, by decide⟩

/-- The last writable word, the first read-only one, and the last byte of PKT. -/
theorem witness_HostWriteIsTakenOrFaults :
    (withBus [.access .producer (.write 0x30 4 1)]).bus = .access .producer (.write 0x30 4 1) :: [] ∧
    answer (step (withBus [.access .producer (.write 0x30 4 1)])) (fun t => t.hdr.frame) = some (.of 1) ∧
    answer (step (withBus [.access .producer (.write 0x15B7 1 1)])) (fun t => t.pkt.read 1463) = some 1 ∧
    faultOf (step (withBus [.access .producer (.write 0x34 4 1)])) = some (.busFault .producer 0x34 4 .write) :=
  ⟨rfl, by decide, by decide, by decide⟩

/-- A byte register, the registers OPA, OPC and HDR_FRAME that keep all 32 bits, and a byte of HDR_NAME and of PKT, each
written by the producer and read by the consumer. -/
theorem witness_ReadAfterWriteReturnsTheValue :
    let twice (addr : Word) (n : Nat) := withBus [.access .producer (.write addr n 0x1FF), .access .consumer (.read addr n)]
    let last (addr : Word) (n : Nat) :=
      answer (Host.Core.run Sys2Proof.core 2 (twice addr n)) (fun t => t.replies.map (·.val))
    ([0x04, 0x08, 0x0C, 0x30].map fun addr => last addr 4) = List.replicate 4 (some [0x1FF]) ∧
    ([0x20, 0x24, 0x28, 0x2C].map fun addr => last addr 4) = List.replicate 4 (some [0xFF]) ∧
    ([0x40, 0x4F, 0x50, 0x5F, 0x1000, 0x15B7].map fun addr => last addr 1) = List.replicate 6 (some [0xFF]) ∧
    (withBus [.access .producer (.write 0x2C 4 0x1FF), .access .consumer (.read 0x2C 4)]).bus =
      .access .producer (.write 0x2C 4 0x1FF) :: .access .consumer (.read 0x2C 4) :: [] ∧
    ((0x2C : Word) - State.reset.params.base).toNat % 4 = 0 ∧ 0x20 ≤ ((0x2C : Word) - State.reset.params.base).toNat ∧
    ((0x2C : Word) - State.reset.params.base).toNat < 0x34 ∧ 0x1000 ≤ ((0x15B7 : Word) - State.reset.params.base).toNat ∧
    ((0x15B7 : Word) - State.reset.params.base).toNat < 0x15B8 :=
  ⟨by decide, by decide, by decide, rfl, by decide, by decide, by decide, by decide, by decide⟩

theorem witness_WordRegistersReadAtTheirOffsets :
    (withBus [.access .consumer (.read 0x74 4)]).bus =
      .access .consumer (.read (State.reset.params.base + BitVec.ofNat 32 0x74) 4) :: [] ∧
    (0x74, State.reset.params.magic) ∈ [(0x70, State.reset.params.capMax), (0x74, State.reset.params.magic)] := by decide

/-- The last byte of each byte row: HDR_NAME, CFG_EXPNAME, PKT and the live RING of `ring4`. -/
theorem witness_ByteRowsReadAtTheirOffsets :
    let read (a : Word) := { ring4 with bus := [.access .consumer (.read (ring4.params.base + a) 1)] }
    (0x4F = 0x40 + (15 : Fin 16).val ∧ 0x5F = 0x50 + (15 : Fin 16).val ∧ 1463 < 1464 ∧ 7 < 2 * ring4.rb.cap.toNat ∧
      7 < 2 * ring4.params.capMax.toNat ∧ 0x10000 + 7 < 2 ^ 32) ∧
    answer (step (read 0x4F)) (fun t => t.replies.map (·.val)) = some [BitVec.ofNat 32 ring4.hdr.name[15].val.toNat] ∧
    answer (step (read 0x5F)) (fun t => t.replies.map (·.val)) = some [BitVec.ofNat 32 ring4.expName[15].toNat] ∧
    (read 0x15B7).bus = .access .consumer (.read (ring4.params.base + 0x15B7) 1) :: [] ∧
    (read 0x10007).bus = .access .consumer (.read (ring4.params.base + 0x10007) 1) :: [] :=
  ⟨by decide, by decide, by decide, rfl, rfl⟩

/-- PACK_FMT with OPC alone unwritten, a host read of an unwritten RES0, and a command that reads nothing unwritten. -/
theorem witness_StrictStepStopsAtTheFirstUnwrittenRead :
    let cmd (w : Word) : HostEvent := .access .producer (.write 0 4 w)
    let s := { operands 5 1 0 with opc := .unwritten, bus := [cmd 0x13] }
    let u := { ring4 with opc := .of 0, bus := [cmd 0x13] }
    (ruleEventReads s (cmd 0x13) = [.reg .opa, .reg .opb] ++ .reg .opc :: [] ∧
      (∀ x ∈ [Target.reg .opa, .reg .opb], ¬ NoValueYet s x) ∧ NoValueYet s (.reg .opc) ∧
      faultOf (strictStep s) = some (.readUnwritten (.reg .opc))) ∧
    (ruleEventReads s (.access .consumer (.read 0x14 4)) = [] ++ .reg .res0 :: [] ∧ NoValueYet s (.reg .res0)) ∧
    ∀ x ∈ ruleEventReads u (cmd 0x13), ¬ NoValueYet u x := by
  refine ⟨⟨rfl, by simp [NoValueYet, operands, Reg.of], rfl, by decide⟩, ⟨rfl, rfl⟩, ?_⟩
  change ∀ x ∈ [Target.reg .opa, .reg .opb, .reg .opc], _
  simp [NoValueYet, ring4, operands, Reg.of]

/-- A pseudo-instruction whose command answers a next state. -/
theorem witness_PseudoInstructionsRunTheirCommand :
    exec (pseudoInstr (.packsr 3 0)) (pseudoOperands ring4 (.packsr 3 0)) =
      .next (nextOr ring4 (exec (pseudoInstr (.packsr 3 0)) (pseudoOperands ring4 (.packsr 3 0)))) := rfl

end Sys2Proof.Tests
end

section
/-! SUPPORT. Proofs for spec/00_scope.md: how every command ends (R13, R266), and that the parameters are fixed (R8). -/

open Sys2Proof Sys2Proof.Machine

namespace Sys2Proof.Machine

/-! ### How every command ends -/

/-- `u` is `s` but for what some command's pseudocode writes before it finishes: the result registers, the header
registers, the ring registers, PKT, RING and the draws. STATUS is not among them: `finishOk` writes it. -/
def WritesOnlyEffects (s u : State) : Prop :=
  u = { s with
    res0 := u.res0, res1 := u.res1, res2 := u.res2, hdr := u.hdr, rb := u.rb, pkt := u.pkt, ring := u.ring,
    nextDraw := u.nextDraw }

theorem WritesOnlyEffects.params_eq {s u : State} (h : WritesOnlyEffects s u) : u.params = s.params :=
  (congrArg State.params h :)

/-- The two ways a command run on `s` ends (R13): it fails with a status other than OK on the state it began with, or
it finishes OK on the state its effects left. -/
inductive CommandEnds (s : State) : Host.Outcome State Fault Refusal → Prop where
  | failed {c : StatusCode} (hc : c ≠ .ok) : CommandEnds s (fail c s)
  | finished {u : State} (hu : WritesOnlyEffects s u) : CommandEnds s (finishOk u)

/-- A check of the pseudocode keeps the two ways to end. -/
theorem CommandEnds.ite {s : State} {p : Prop} [Decidable p] {a b : Host.Outcome State Fault Refusal}
    (ha : CommandEnds s a) (hb : CommandEnds s b) : CommandEnds s (if p then a else b) := by
  split
  · exact ha
  · exact hb

open CommandEnds in
/-- Every command ends in one of the two ways of R13; each case follows the checks of the command's pseudocode. -/
theorem exec_ends (i : Instr) (s : State) : CommandEnds s (exec i s) := by
  cases i with
  | hdrDecode => exact ite (failed nofun) (ite (failed nofun) (ite (failed nofun) (finished rfl)))
  | hdrEncode => exact ite (failed nofun) (finished rfl)
  | packSrsp => exact ite (finished rfl) (failed nofun)
  | packFmt => exact ite (finished rfl) (failed nofun)
  | unpackSrsp => exact finished rfl
  | unpackFmt => exact finished rfl
  | srToHz => exact finished rfl
  | hzToSr =>
    change CommandEnds s (execHzToSr s)
    unfold execHzToSr
    split
    · exact finished rfl
    · exact finished rfl
  | dtSize => exact finished rfl
  | expectLen => exact finished rfl
  | rxClassify =>
    exact ite (failed nofun) (ite (failed nofun) (ite (finished rfl) (ite (finished rfl) (finished rfl))))
  | rbInit => exact ite (failed nofun) (ite (failed nofun) (finished rfl))
  | rbDeinit => exact finished rfl
  | rbWrite => exact ite (finished rfl) (ite (failed nofun) (ite (failed nofun) (finished rfl)))
  | rbRegion => exact ite (finished rfl) (finished rfl)
  | rbConsume => exact ite (finished rfl) (ite (failed nofun) (finished rfl))
  | rbCount => exact finished rfl
  | rbCapacity => exact finished rfl
  | rbFree => exact finished rfl
  | rbEmpty => exact finished rfl
  | rbFull => exact finished rfl

/-- What a command answers, said once (R13): the old state under a status other than OK, or its effects under OK. -/
theorem exec_next_cases {i : Instr} {s t : State} (h : exec i s = .next t) :
    (∃ c, c ≠ .ok ∧ t = s.setStatus (statusNum c)) ∨ ∃ u, WritesOnlyEffects s u ∧ t = u.setStatus 0 := by
  have ends : CommandEnds s (.next t) := h ▸ exec_ends i s
  generalize ho : Host.Outcome.next t = o at ends
  cases ends with
  | failed hc => exact .inl ⟨_, hc, fail_next ho.symm⟩
  | finished hu => exact .inr ⟨_, hu, finishOk_next ho.symm⟩

/-! ### The parameters -/

theorem exec_params {i : Instr} {s t : State} (h : exec i s = .next t) : t.params = s.params := by
  obtain ⟨c, -, rfl⟩ | ⟨u, hu, rfl⟩ := exec_next_cases h
  · rfl
  · exact hu.params_eq

/-- What a CMD write answers, said once (R22, R103): its command's answer, or IllegalCommand on the old state. -/
theorem runCommand_next_cases {w : Word} {s t : State} (h : runCommand w s = .next t) :
    (∃ i, decode w = .ok i ∧ exec i s = .next t) ∨
    (∃ e, decode w = .error e) ∧ t = s.setStatus (statusNum .illegalCommand) := by
  unfold runCommand at h
  split at h
  · exact .inl ⟨_, ‹_›, h⟩
  · exact .inr ⟨⟨_, ‹_›⟩, fail_next h⟩

theorem runCommand_params {w : Word} {s t : State} (h : runCommand w s = .next t) : t.params = s.params := by
  obtain ⟨i, -, hi⟩ | ⟨-, rfl⟩ := runCommand_next_cases h
  · exact exec_params hi
  · rfl

theorem writeTarget_params {s t : State} {v : Word} {tg : Target} (h : writeTarget s v tg = some t) :
    t.params = s.params :=
  (congrArg State.params (writeTarget_cases h) :)

@[simp] theorem platformReset_params (s : State) : (platformReset s).params = s.params := rfl

end Sys2Proof.Machine

namespace Sys2Proof.Proofs

/-- Settles O14: the parameters stand through each of the five things a step can do. -/
theorem parametersNeverChange : Obligations.ParametersNeverChange := by
  intro s t h
  obtain ⟨-, rfl⟩ | ⟨rest, -, rfl⟩ | ⟨rest, who, addr, n, tg, v, -, -, -, rfl⟩ |
    ⟨rest, who, addr, n, w, -, -, hcmd⟩ | ⟨rest, who, addr, n, v, tg, -, -, -, hwrite⟩ := step_next_cases h
  · rfl
  · simp
  · simp
  · simpa using runCommand_params hcmd
  · simpa using writeTarget_params hwrite

/-- Settles O17: a command that wrote anything but STATUS finished OK. -/
theorem failingCommandWritesOnlyStatus : Obligations.FailingCommandWritesOnlyStatus := by
  intro i s t h hstatus
  obtain ⟨c, -, rfl⟩ | ⟨u, -, rfl⟩ := exec_next_cases h
  · rfl
  · exact absurd rfl hstatus

end Sys2Proof.Proofs
end

section
/-! SUPPORT. What each command writes, said once for all 21, and what each step does with written-ness, the ring and the
memories (spec/10_state.md). -/

open Sys2Proof Sys2Proof.Machine Sys2Proof.Safety Sys2Proof.Claims

namespace Sys2Proof.Machine

/-! ### The ring registers a ring command leaves -/

/-- The registers of an empty ring of capacity c, uninitialised where c = 0 (R201, R202). -/
def RingRegs.empty (c : Word) : RingRegs := { cap := c, head := 0, tail := 0, count := 0 }

/-- The registers after len bytes are appended (R203). -/
def RingRegs.push (r : RingRegs) (len : Nat) : RingRegs :=
  { r with
    head := BitVec.ofNat 32 ((r.head.toNat + len) % r.cap.toNat), count := BitVec.ofNat 32 (r.count.toNat + len) }

/-- The registers after n bytes are taken off (R207). -/
def RingRegs.pop (r : RingRegs) (n : Nat) : RingRegs :=
  { r with
    tail := BitVec.ofNat 32 ((r.tail.toNat + n) % r.cap.toNat), count := BitVec.ofNat 32 (r.count.toNat - n) }

theorem register_pos_iff {c : Word} : 0 < c.toNat ↔ c ≠ 0 := by bv_omega

/-- A remainder by a register fits in a register. -/
theorem mod_register_toNat (n : Nat) {c : Word} (hc : 0 < c.toNat) : (BitVec.ofNat 32 (n % c.toNat)).toNat = n % c.toNat := by
  have hlt := Nat.mod_lt n hc
  rw [BitVec.toNat_ofNat, Nat.mod_eq_of_lt (by omega)]

theorem RingRegs.push_head_toNat (r : RingRegs) (len : Nat) (hc : 0 < r.cap.toNat) :
    (r.push len).head.toNat = (r.head.toNat + len) % r.cap.toNat := mod_register_toNat _ hc

theorem RingRegs.push_count_toNat (r : RingRegs) (len : Nat) (hfit : r.count.toNat + len ≤ r.cap.toNat) :
    (r.push len).count.toNat = r.count.toNat + len := by
  simp only [RingRegs.push, BitVec.toNat_ofNat]
  omega

theorem RingRegs.pop_tail_toNat (r : RingRegs) (n : Nat) (hc : 0 < r.cap.toNat) :
    (r.pop n).tail.toNat = (r.tail.toNat + n) % r.cap.toNat := mod_register_toNat _ hc

theorem RingRegs.pop_count_toNat (r : RingRegs) (n : Nat) : (r.pop n).count.toNat = r.count.toNat - n := by
  simp only [RingRegs.pop, BitVec.toNat_ofNat]
  omega

/-! ### Written-ness of the header registers and of the state -/

/-- The second register is written where the first one is (R37). -/
def Reg.Keeps {w : Nat} (a b : Reg w) : Prop := a.written = true → b.written = true

theorem Reg.Keeps.refl {w : Nat} (a : Reg w) : a.Keeps a := id

theorem Reg.Keeps.of {w : Nat} {a : Reg w} {v : BitVec w} : a.Keeps (.of v) := fun _ => rfl

/-- No header register that was written is unwritten afterwards (R37). -/
structure Header.Keeps (h k : Header) : Prop where
  srsp : h.srsp.Keeps k.srsp
  nbs : h.nbs.Keeps k.nbs
  nbc : h.nbc.Keeps k.nbc
  fmt : h.fmt.Keeps k.fmt
  name : ∀ i : Fin 16, h.name[i].Keeps k.name[i]
  frame : h.frame.Keeps k.frame
  plen : h.plen.Keeps k.plen

theorem Header.Keeps.refl (h : Header) : h.Keeps h :=
  ⟨.refl _, .refl _, .refl _, .refl _, fun _ => .refl _, .refl _, .refl _⟩

/-- A decode writes every header register (R131, R140). -/
theorem Header.keeps_decoded (m : Memory) (h : Header) (len : Nat) : h.Keeps (decodedHeader m h len) :=
  ⟨.of, .of, .of, .of, fun i _ => by simp [decodedHeader, loadHeader], .of, .of⟩

theorem Header.keeps_srsp (h : Header) (v : Byte) : h.Keeps { h with srsp := .of v } :=
  { Header.Keeps.refl h with srsp := .of }

theorem Header.keeps_fmt (h : Header) (v : Byte) : h.Keeps { h with fmt := .of v } :=
  { Header.Keeps.refl h with fmt := .of }

theorem Header.keeps_plen (h : Header) (v : Word) : h.Keeps { h with plen := .of v } :=
  { Header.Keeps.refl h with plen := .of }

/-- No register that was written is unwritten afterwards (R37). -/
structure KeepsWritten (s t : State) : Prop where
  opa : s.opa.Keeps t.opa
  opb : s.opb.Keeps t.opb
  opc : s.opc.Keeps t.opc
  status : s.status.Keeps t.status
  res0 : s.res0.Keeps t.res0
  res1 : s.res1.Keeps t.res1
  res2 : s.res2.Keeps t.res2
  hdr : s.hdr.Keeps t.hdr

theorem KeepsWritten.refl (s : State) : KeepsWritten s s :=
  ⟨.refl _, .refl _, .refl _, .refl _, .refl _, .refl _, .refl _, .refl _⟩

section
variable {s t : State} (k : KeepsWritten s t)
include k

theorem KeepsWritten.setStatus (v : Byte) : KeepsWritten s (t.setStatus v) := { k with status := .of }
theorem KeepsWritten.setRes0 (v : Word) : KeepsWritten s (t.setRes0 v) := { k with res0 := .of }
theorem KeepsWritten.setRb (r : RingRegs) : KeepsWritten s (t.setRb r) := { k with }
theorem KeepsWritten.setPkt (m : Memory) : KeepsWritten s (t.setPkt m) := { k with }
theorem KeepsWritten.setRing (m : Memory) : KeepsWritten s (t.setRing m) := { k with }
theorem KeepsWritten.countDraw : KeepsWritten s t.countDraw := { k with }
theorem KeepsWritten.setHdr {h : Header} (hk : s.hdr.Keeps h) : KeepsWritten s (t.setHdr h) := { k with hdr := hk }

end

/-- Written-ness register by register is written-ness of every target (R37, R38). -/
theorem KeepsWritten.unwrittenAt_eq_false {s t : State} (k : KeepsWritten s t) {tg : Target}
    (h : unwrittenAt s tg = false) : unwrittenAt t tg = false := by
  have reg {w : Nat} {a b : Reg w} (hk : a.Keeps b) (ha : (!a.written) = false) : (!b.written) = false := by
    simpa using hk (by simpa using ha)
  cases tg with
  | reg r =>
    cases r with
    | opa => exact reg k.opa h
    | opb => exact reg k.opb h
    | opc => exact reg k.opc h
    | status => exact reg k.status h
    | res0 => exact reg k.res0 h
    | res1 => exact reg k.res1 h
    | res2 => exact reg k.res2 h
    | hdrSrsp => exact reg k.hdr.srsp h
    | hdrNbs => exact reg k.hdr.nbs h
    | hdrNbc => exact reg k.hdr.nbc h
    | hdrFmt => exact reg k.hdr.fmt h
    | hdrFrame => exact reg k.hdr.frame h
    | hdrPlen => exact reg k.hdr.plen h
    | rbCap | rbHead | rbTail | rbCount | idCapMax | idMagic => rfl
  | hdrName i => exact reg (k.hdr.name i) h
  | cmd | expName i | pkt a | ring a => rfl

/-! ### What each command writes -/

/-- The result registers, each written or left as it was. -/
def State.withResults (s : State) (r0 r1 r2 : Option Word) : State :=
  { s with res0 := r0.elim s.res0 .of, res1 := r1.elim s.res1 .of, res2 := r2.elim s.res2 .of }

theorem Reg.keeps_elim {w : Nat} (a : Reg w) (o : Option (BitVec w)) : a.Keeps (o.elim a .of) := by
  cases o
  · exact .refl a
  · exact .of

/-- What a command has written, STATUS apart, when it ends: the state its effects leave. `results` is also every failure
and every no-op; it says that the history of the ring is as before (R36). -/
inductive CommandEffect (s : State) : Instr → State → Prop where
  | results {i : Instr} (r0 r1 r2 : Option Word) (idle : ∀ h, historyOfCommand s h i = h) :
      CommandEffect s i (s.withResults r0 r1 r2)
  | header {i : Instr} (hi : i ∉ ringCommands) (k : Header) (hk : s.hdr.Keeps k) (r0 r1 r2 : Option Word) :
      CommandEffect s i ((s.setHdr k).withResults r0 r1 r2)
  | encode (plen r0 : Word) :
      CommandEffect s .hdrEncode
        (((s.setPkt (s.pkt.writeRun 0 (hdrBytes s.params s.hdr))).setHdr { s.hdr with plen := .of plen }).setRes0 r0)
  | init (pos : 0 < operandA s) (le : operandA s ≤ s.params.capMax.toNat) :
      CommandEffect s .rbInit
        (((s.setRb (.empty s.opa.val)).setRing (s.ring.writeRun 0 (drawRun s.nextDraw (2 * operandA s)))).countDraw)
  | deinit : CommandEffect s .rbDeinit (s.setRb (.empty 0))
  | write (pos : 0 < operandB s) (inPkt : operandA s + operandB s ≤ Config.pktSize)
      (fit : s.rb.count.toNat + operandB s ≤ s.rb.cap.toNat) :
      CommandEffect s .rbWrite
        ((s.setRing (ringAppend s.ring s.pkt s.rb.cap.toNat s.rb.head.toNat (operandA s) (operandB s))).setRb
          (s.rb.push (operandB s)))
  | consume (pos : 0 < operandA s) (le : operandA s ≤ s.rb.count.toNat) :
      CommandEffect s .rbConsume (s.setRb (s.rb.pop (operandA s)))

/-- The command answers its effect under a status of R260. -/
def AnswersEffect (i : Instr) (s : State) (o : Host.Outcome State Fault Refusal) : Prop :=
  ∃ c u, CommandEffect s i u ∧ o = .next (u.setStatus (statusNum c))

theorem AnswersEffect.finished {i : Instr} {s u : State} (h : CommandEffect s i u) : AnswersEffect i s (finishOk u) :=
  ⟨.ok, u, h, rfl⟩

theorem AnswersEffect.failed {i : Instr} {s : State} (c : StatusCode) (idle : ∀ h, historyOfCommand s h i = h) :
    AnswersEffect i s (fail c s) :=
  ⟨c, s, .results none none none idle, rfl⟩

/-- A check of the pseudocode: each side may use what the check found. -/
theorem AnswersEffect.ite {i : Instr} {s : State} {p : Prop} [Decidable p] {a b : Host.Outcome State Fault Refusal}
    (ha : p → AnswersEffect i s a) (hb : ¬ p → AnswersEffect i s b) : AnswersEffect i s (if p then a else b) := by
  split
  · exact ha ‹_›
  · exact hb ‹_›

/-- A codec command adds nothing to the history of the ring (R36). -/
theorem historyOfCommand_codec {i : Instr} (hi : i ∉ ringCommands) (s : State) (h : History) :
    historyOfCommand s h i = h := by
  cases i with
  | rbInit | rbDeinit | rbWrite | rbConsume => exact absurd (by decide) hi
  | _ => rfl

theorem historyOfCommand_setBus (s : State) (es : List HostEvent) (h : History) (i : Instr) :
    historyOfCommand (s.setBus es) h i = historyOfCommand s h i := by
  cases i <;> rfl

theorem rbInit_answers (s : State) : AnswersEffect .rbInit s (execRbInit s) := by
  refine .ite (fun h0 => .failed _ fun h => ?_) fun h0 => .ite (fun hbig => .failed _ fun h => ?_) fun hle => ?_
  · exact if_neg (by omega)
  · exact if_neg (by omega)
  · have hcap : BitVec.ofNat 32 (operandA s) = s.opa.val := by simp [operandA]
    rw [hcap]
    exact .finished (.init (by omega) (by omega))

theorem rbWrite_answers (s : State) : AnswersEffect .rbWrite s (execRbWrite s) := by
  refine .ite (fun h0 => .finished (.results none none none fun h => ?_)) fun h0 =>
    .ite (fun hbig => .failed _ fun h => ?_) fun hpkt => .ite (fun hfull => .failed _ fun h => ?_) fun hfit => ?_
  · simp [historyOfCommand, h0, Memory.readRun]
  · exact if_neg (by omega)
  · exact if_neg (by simp only [ringFree] at hfull; omega)
  · exact .finished (.write (by omega) (by omega) (by simp only [ringFree] at hfit; omega))

theorem rbConsume_answers (s : State) : AnswersEffect .rbConsume s (execRbConsume s) := by
  refine .ite (fun h0 => .finished (.results none none none fun h => ?_)) fun h0 =>
    .ite (fun hbig => .failed _ fun h => ?_) fun hle => ?_
  · simp [historyOfCommand, h0]
  · exact if_neg (by omega)
  · exact .finished (.consume (by omega) (by omega))

open AnswersEffect in
/-- What every command answers, each case along the checks of its pseudocode. -/
theorem exec_answers (i : Instr) (s : State) : AnswersEffect i s (exec i s) := by
  have idle {j : Instr} (hj : j ∉ ringCommands) (h : History) := historyOfCommand_codec hj s h
  cases i with
  | hdrDecode =>
    exact ite (fun _ => failed _ (idle (by decide))) fun _ => ite (fun _ => failed _ (idle (by decide))) fun _ =>
      ite (fun _ => failed _ (idle (by decide))) fun _ =>
        finished (.header (by decide) _ (Header.keeps_decoded _ _ _) (some _) (some _) none)
  | hdrEncode => exact ite (fun _ => failed _ (idle (by decide))) fun _ => finished (.encode _ _)
  | packSrsp =>
    exact ite (fun _ => finished (.header (by decide) _ (Header.keeps_srsp _ _) (some _) none none))
      fun _ => failed _ (idle (by decide))
  | packFmt =>
    exact ite (fun _ => finished (.header (by decide) _ (Header.keeps_fmt _ _) (some _) none none))
      fun _ => failed _ (idle (by decide))
  | unpackSrsp => exact finished (.results (some _) (some _) none (idle (by decide)))
  | unpackFmt => exact finished (.results (some _) (some _) (some _) (idle (by decide)))
  | srToHz => exact finished (.results (some _) none none (idle (by decide)))
  | hzToSr =>
    change AnswersEffect _ s (execHzToSr s)
    unfold execHzToSr
    split
    · exact finished (.results (some _) none none (idle (by decide)))
    · exact finished (.results (some _) none none (idle (by decide)))
  | dtSize => exact finished (.results (some _) none none (idle (by decide)))
  | expectLen => exact finished (.results (some _) (some _) none (idle (by decide)))
  | rxClassify =>
    exact ite (fun _ => failed _ (idle (by decide))) fun _ => ite (fun _ => failed _ (idle (by decide))) fun _ =>
      ite (fun _ => finished (.results (some _) (some _) (some _) (idle (by decide)))) fun _ =>
        ite (fun _ => finished (.results (some _) (some _) (some _) (idle (by decide)))) fun _ =>
          finished (.header (by decide) _ (Header.keeps_decoded _ _ _) (some _) (some _) (some _))
  | rbInit => exact rbInit_answers s
  | rbDeinit => exact finished .deinit
  | rbWrite => exact rbWrite_answers s
  | rbRegion =>
    exact ite (fun _ => finished (.results (some _) (some _) (some _) fun _ => rfl))
      fun _ => finished (.results (some _) (some _) (some _) fun _ => rfl)
  | rbConsume => exact rbConsume_answers s
  | rbCount => exact finished (.results (some _) none none fun _ => rfl)
  | rbCapacity => exact finished (.results (some _) none none fun _ => rfl)
  | rbFree => exact finished (.results (some _) none none fun _ => rfl)
  | rbEmpty => exact finished (.results (some _) none none fun _ => rfl)
  | rbFull => exact finished (.results (some _) none none fun _ => rfl)

/-- The inversion of `exec`: the next state is a command effect under a status of R260. -/
theorem exec_next_effect {i : Instr} {s t : State} (h : exec i s = .next t) :
    ∃ c u, CommandEffect s i u ∧ t = u.setStatus (statusNum c) := by
  obtain ⟨c, u, hu, ho⟩ := exec_answers i s
  rw [h] at ho
  injection ho with ht
  exact ⟨c, u, hu, ht⟩

end Sys2Proof.Machine
end

section
/-! SUPPORT. Every step keeps the invariant and the ring's history, no step forgets what was written, and the frames of
the command families (spec/10_state.md R33, R36, R37). -/

open Sys2Proof Sys2Proof.Machine Sys2Proof.Safety Sys2Proof.Claims

namespace Sys2Proof.Safety

/-! ### The ring registers' invariant (R33) -/

theorem ringRegsInv_empty {p : Config.Params} {c : Word} (hc : c.toNat ≤ p.capMax.toNat) : ringRegsInv p (.empty c) := by
  refine ⟨fun _ => ⟨rfl, rfl, rfl⟩, fun h0 => ?_⟩
  have hpos : 0 < c.toNat := register_pos_iff.2 h0
  exact ⟨hc, hpos, hpos, Nat.zero_le _, by simp [RingRegs.empty]⟩

/-- In a ring with room or with bytes stored, the capacity is not zero and the cursors are in range. -/
theorem ringRegsInv.of_pos {p : Config.Params} {r : RingRegs} (h : ringRegsInv p r) (hc : 0 < r.cap.toNat) :
    r.cap.toNat ≤ p.capMax.toNat ∧ r.head.toNat < r.cap.toNat ∧ r.tail.toNat < r.cap.toNat ∧
    r.count.toNat ≤ r.cap.toNat ∧ r.head.toNat = (r.tail.toNat + r.count.toNat) % r.cap.toNat :=
  h.2 fun h0 => by simp [h0] at hc

/-- The ring never stores more than its capacity, initialised or not (R33). -/
theorem ringRegsInv.count_le {p : Config.Params} {r : RingRegs} (h : ringRegsInv p r) : r.count.toNat ≤ r.cap.toNat := by
  by_cases h0 : r.cap = 0
  · simp [h.1 h0, h0]
  · exact (h.2 h0).2.2.2.1

theorem ringRegsInv_push {p : Config.Params} {r : RingRegs} (h : ringRegsInv p r) {len : Nat} (pos : 0 < len)
    (fit : r.count.toNat + len ≤ r.cap.toNat) : ringRegsInv p (r.push len) := by
  have hc : 0 < r.cap.toNat := by omega
  obtain ⟨hmax, -, htail, -, hhead⟩ := h.of_pos hc
  refine ⟨fun h0 => absurd (h0 : r.cap = 0) (register_pos_iff.1 hc), fun _ => ⟨hmax, ?_, htail, ?_, ?_⟩⟩
  · rw [r.push_head_toNat len hc]
    exact Nat.mod_lt _ hc
  · rw [r.push_count_toNat len fit]
    exact fit
  · rw [r.push_head_toNat len hc, r.push_count_toNat len fit, hhead, Nat.mod_add_mod, Nat.add_assoc]
    rfl

theorem ringRegsInv_pop {p : Config.Params} {r : RingRegs} (h : ringRegsInv p r) {n : Nat} (pos : 0 < n)
    (le : n ≤ r.count.toNat) : ringRegsInv p (r.pop n) := by
  have hc : 0 < r.cap.toNat := by have := h.count_le; omega
  obtain ⟨hmax, hlt, -, hcount, hhead⟩ := h.of_pos hc
  refine ⟨fun h0 => absurd (h0 : r.cap = 0) (register_pos_iff.1 hc), fun _ => ⟨hmax, hlt, ?_, ?_, ?_⟩⟩
  · rw [r.pop_tail_toNat n hc]
    exact Nat.mod_lt _ hc
  · rw [r.pop_count_toNat n]
    exact (Nat.sub_le _ _).trans hcount
  · change r.head.toNat = (_ + _) % r.cap.toNat
    rw [r.pop_tail_toNat n hc, r.pop_count_toNat n, Nat.mod_add_mod, hhead]
    congr 1
    omega

/-! ### The invariant -/

/-- The invariant reads the ring registers, the parameters, STATUS and the memories only. -/
theorem Inv.congr {s t : State} (h : Inv s) (hrb : t.rb = s.rb) (hparams : t.params = s.params)
    (hstatus : t.status = s.status) (hpkt : t.pkt = s.pkt) (hring : t.ring = s.ring) : Inv t :=
  ⟨by rw [hrb, hparams]; exact h.ringRegs, by rw [hparams]; exact h.params, by rw [hstatus]; exact h.status,
    by rw [hpkt]; exact h.pkt, by rw [hring, hparams]; exact h.ring⟩

theorem Inv.setBus {s : State} (h : Inv s) (es : List HostEvent) : Inv (s.setBus es) := h.congr rfl rfl rfl rfl rfl

/-- The invariant takes any status of R260. -/
theorem Inv.setStatus {s : State} (h : Inv s) (c : StatusCode) : Inv (s.setStatus (statusNum c)) :=
  ⟨h.ringRegs, h.params, statusNum_le c, h.pkt, h.ring⟩

/-- What a command writes keeps the invariant: only HDR_ENCODE writes PKT, and only four ring commands the ring. -/
theorem Inv.commandEffect {s u : State} {i : Instr} (h : Inv s) (e : CommandEffect s i u) : Inv u := by
  cases e with
  | results => exact h.congr rfl rfl rfl rfl rfl
  | header => exact h.congr rfl rfl rfl rfl rfl
  | encode plen r0 =>
    exact ⟨h.ringRegs, h.params, h.status, Memory.wf_writeRun h.pkt _ _ (by simp [Config.pktSize]), h.ring⟩
  | init pos le =>
    refine ⟨ringRegsInv_empty le, h.params, h.status, h.pkt, Memory.wf_writeRun h.ring _ _ ?_⟩
    rw [drawRun_length, Nat.zero_add]
    exact Nat.mul_le_mul_left 2 le
  | deinit => exact ⟨ringRegsInv_empty (Nat.zero_le _), h.params, h.status, h.pkt, h.ring⟩
  | write pos inPkt fit =>
    obtain ⟨hmax, hhead, -⟩ := h.ringRegs.of_pos (by omega)
    exact ⟨ringRegsInv_push h.ringRegs pos fit, h.params, h.status, h.pkt,
      ringAppend_wf _ h.ring hhead (by omega) (Nat.mul_le_mul_left 2 hmax)⟩
  | consume pos le => exact ⟨ringRegsInv_pop h.ringRegs pos le, h.params, h.status, h.pkt, h.ring⟩

theorem Inv.runCommand {w : Word} {s t : State} (h : Inv s) (hrun : runCommand w s = .next t) : Inv t := by
  obtain ⟨i, -, hexec⟩ | ⟨-, rfl⟩ := runCommand_next_cases hrun
  · obtain ⟨c, u, he, rfl⟩ := exec_next_effect hexec
    exact (h.commandEffect he).setStatus c
  · exact h.setStatus _

/-- A byte of PKT that the address map names lies inside PKT (R60, R63). -/
theorem busTarget_pkt_lt {p : Config.Params} {off n a : Nat} (h : busTarget p off n = some (.pkt a)) :
    a < Config.pktSize := by
  unfold busTarget at h
  split at h
  · obtain ⟨heq, -⟩ | ⟨r, heq, -⟩ := wordTarget_eq_some h <;> cases heq
  · split at h
    · obtain ⟨i, heq, -⟩ | ⟨i, heq, -⟩ | ⟨b, heq, -, hlt⟩ | ⟨b, heq, -⟩ := byteTarget_eq_some h <;> cases heq
      exact hlt
    · cases h

/-- A stored write leaves PKT alone or writes one byte of it (R69). -/
theorem writeTarget_pkt_cases {s t : State} {v : Word} {tg : Target} (h : writeTarget s v tg = some t) :
    t.pkt = s.pkt ∨ ∃ a, tg = .pkt a ∧ t.pkt = s.pkt.write a (v.setWidth 8) := by
  cases tg with
  | reg r => cases r <;> cases h <;> exact .inl rfl
  | hdrName i => cases h; exact .inl rfl
  | expName i => cases h; exact .inl rfl
  | pkt a => cases h; exact .inr ⟨a, rfl, rfl⟩
  | cmd => cases h
  | ring a => cases h

theorem Inv.writeTarget {s t : State} {v : Word} {tg : Target} {off n : Nat} (h : Inv s)
    (hmap : busTarget s.params off n = some tg) (hwrite : writeTarget s v tg = some t) : Inv t := by
  have hother := writeTarget_cases hwrite
  have hpkt : t.pkt.wf Config.pktSize := by
    obtain heq | ⟨a, rfl, heq⟩ := writeTarget_pkt_cases hwrite
    · rw [heq]; exact h.pkt
    · rw [heq]; exact Memory.wf_write h.pkt a _ (busTarget_pkt_lt hmap)
  rw [hother]
  exact ⟨h.ringRegs, h.params, h.status, hpkt, h.ring⟩

theorem Inv.platformReset {s : State} (h : Inv s) : Inv (platformReset s) :=
  ⟨ringRegsInv_empty (Nat.zero_le _), h.params, Nat.zero_le _, Memory.wf_drawn _ _, Memory.wf_drawn _ _⟩

/-! ### The ring holds its history (R36, R208) -/

/-- The newest c bytes written stand in RING at both of their offsets (R36 (c)). -/
def HoldsNewest (ring : Memory) (c : Nat) (written : List Byte) : Prop :=
  ∀ i b, written[i]? = some b → written.length ≤ i + c → ring.read (i % c) = b ∧ ring.read (i % c + c) = b

/-- Two numbers less than c apart have different remainders. -/
theorem mod_ne_mod {c i j : Nat} (hlt : i < j) (hnear : j < i + c) : i % c ≠ j % c := by
  intro heq
  have hdvd : c ∣ j - i := (Nat.modEq_iff_dvd' hlt.le).1 heq
  have := Nat.le_of_dvd (by omega) hdvd
  omega

/-- The split write keeps the newest bytes in the ring: those it appends land at their own offsets, and of the older
ones it overwrites only bytes that are no longer among the newest c (R204). -/
theorem HoldsNewest.ringAppend {ring pkt : Memory} {c src len : Nat} {written : List Byte} (hc : 0 < c) (hlen : len ≤ c)
    (h : HoldsNewest ring c written) :
    HoldsNewest (ringAppend ring pkt c (written.length % c) src len) c (written ++ pkt.readRun src len) := by
  intro i b hb hnew
  have hhead : written.length % c < c := Nat.mod_lt _ hc
  have hpos (j : Nat) : (written.length % c + j) % c = (written.length + j) % c := Nat.mod_add_mod _ _ _
  simp only [List.length_append, Memory.readRun_length] at hnew
  by_cases hold : i < written.length
  · rw [List.getElem?_append_left hold] at hb
    obtain ⟨hlow, hhigh⟩ := h i b hb (by omega)
    have hi : i % c < c := Nat.mod_lt _ hc
    have apart : ∀ j < len, i % c ≠ (written.length % c + j) % c ∧ (written.length % c + j) % c < c := fun j hj =>
      ⟨by rw [hpos]; exact mod_ne_mod (by omega) (by omega), Nat.mod_lt _ hc⟩
    constructor
    · rw [ringAppend_read_other _ _ hhead hlen fun j hj => by have := apart j hj; omega]
      exact hlow
    · rw [ringAppend_read_other _ _ hhead hlen fun j hj => by have := apart j hj; omega]
      exact hhigh
  · obtain ⟨j, rfl⟩ : ∃ j, i = written.length + j := ⟨i - written.length, by omega⟩
    rw [List.getElem?_append_right (by omega), Nat.add_sub_cancel_left] at hb
    obtain ⟨hj, rfl⟩ := List.getElem?_eq_some_iff.1 hb
    rw [Memory.readRun_length] at hj
    rw [Memory.readRun_getElem, ← hpos]
    exact ringAppend_read_written _ _ hhead hlen hj

/-- The history is held by the ring registers and RING only. -/
theorem HoldsHistory.congr {s t : State} {h : History} (hh : HoldsHistory s h) (hrb : t.rb = s.rb)
    (hring : t.ring = s.ring) : HoldsHistory t h := by
  obtain ⟨huninit, hconsumed, hhead, htail, hbytes⟩ := hh
  constructor <;> simp only [hrb, hring] <;> assumption

/-- An empty ring holds the empty history, whatever RING holds (R38, R201, R202). -/
theorem holdsHistory_fresh {s : State} {c : Word} (hrb : s.rb = .empty c) (epoch : Nat) : HoldsHistory s (.fresh epoch) where
  uninit _ := ⟨rfl, rfl⟩
  consumed := by simp [hrb, RingRegs.empty, History.fresh]
  head _ := by simp [hrb, RingRegs.empty, History.fresh]
  tail _ := by simp [hrb, RingRegs.empty, History.fresh]
  bytes i b hb := by simp [History.fresh] at hb

/-- RB_WRITE appends the bytes it took from PKT to the history (R203). -/
theorem HoldsHistory.write {s : State} {h : History} {src len : Nat} (hh : HoldsHistory s h) (pos : 0 < len)
    (fit : s.rb.count.toNat + len ≤ s.rb.cap.toNat) :
    HoldsHistory
      ((s.setRing (Machine.ringAppend s.ring s.pkt s.rb.cap.toNat s.rb.head.toNat src len)).setRb (s.rb.push len))
      { h with written := h.written ++ s.pkt.readRun src len } := by
  have hpos : 0 < s.rb.cap.toNat := by omega
  have hc : s.rb.cap ≠ 0 := register_pos_iff.1 hpos
  have hbytes : HoldsNewest s.ring s.rb.cap.toNat h.written := hh.bytes
  have happend := hbytes.ringAppend (pkt := s.pkt) (src := src) hpos (show len ≤ _ by omega)
  rw [← hh.head hc] at happend
  refine ⟨fun h0 => absurd h0 hc, ?_, fun _ => ?_, fun _ => hh.tail hc, happend⟩
  · simp only [State.setRb_rb, s.rb.push_count_toNat len fit, List.length_append, Memory.readRun_length]
    have := hh.consumed
    omega
  · simp only [State.setRb_rb, s.rb.push_head_toNat len hpos, List.length_append, Memory.readRun_length, hh.head hc,
      Nat.mod_add_mod]
    rfl

/-- RB_CONSUME takes its bytes off the history (R207). -/
theorem HoldsHistory.consume {s : State} {h : History} {n : Nat} (hh : HoldsHistory s h) (hc : 0 < s.rb.cap.toNat)
    (le : n ≤ s.rb.count.toNat) :
    HoldsHistory (s.setRb (s.rb.pop n)) { h with consumed := h.consumed + n } := by
  have hne : s.rb.cap ≠ 0 := register_pos_iff.1 hc
  refine ⟨fun h0 => absurd h0 hne, ?_, fun _ => hh.head hne, fun _ => ?_, hh.bytes⟩
  · simp only [State.setRb_rb, s.rb.pop_count_toNat n]
    have := hh.consumed
    omega
  · simp only [State.setRb_rb, s.rb.pop_tail_toNat n hc, hh.tail hne, Nat.mod_add_mod]
    rfl

/-- What a command writes holds the history with what the command adds to it (R208). -/
theorem HoldsHistory.commandEffect {s u : State} {h : History} {i : Instr} (hinv : Inv s) (hh : HoldsHistory s h)
    (e : CommandEffect s i u) : HoldsHistory u (historyOfCommand s h i) := by
  cases e with
  | results r0 r1 r2 idle => rw [idle]; exact hh.congr rfl rfl
  | header hi => rw [historyOfCommand_codec hi]; exact hh.congr rfl rfl
  | encode => exact hh.congr rfl rfl
  | init pos le =>
    rw [historyOfCommand, if_pos ⟨pos, le⟩]
    exact holdsHistory_fresh rfl _
  | deinit => exact holdsHistory_fresh rfl _
  | write pos inPkt fit =>
    rw [historyOfCommand, if_pos ⟨inPkt, fit⟩]
    exact hh.write pos fit
  | consume pos le =>
    rw [historyOfCommand, if_pos le]
    exact hh.consume (by have := hinv.ringRegs.count_le; omega) le

/-- A CMD write, with the host access spent, holds the history its word adds to (R22, R208). -/
theorem HoldsHistory.cmdWrite {who : Agent} {addr w : Word} {n : Nat} {s t : State} {h : History} (rest : List HostEvent)
    (hinv : Inv s) (hh : HoldsHistory s h) (hmap : busTarget s.params (busOffset s.params addr) n = some .cmd)
    (hrun : runCommand w (s.setBus rest) = .next t) :
    HoldsHistory t (historyOfEvent s h (.access who (.write addr n w))) := by
  have hspent : HoldsHistory (s.setBus rest) h := hh.congr rfl rfl
  obtain ⟨i, hdec, hexec⟩ | ⟨⟨e, hdec⟩, rfl⟩ := runCommand_next_cases hrun
  · obtain ⟨c, u, he, rfl⟩ := exec_next_effect hexec
    have hu := hspent.commandEffect (hinv.setBus rest) he
    rw [historyOfCommand_setBus] at hu
    simp only [historyOfEvent, hmap, hdec]
    exact hu.congr rfl rfl
  · simp only [historyOfEvent, hmap, hdec]
    exact hspent.congr rfl rfl

/-- A stored write adds nothing to the history (R36). -/
theorem historyOfEvent_stored {s : State} {h : History} {who : Agent} {addr v : Word} {n : Nat} {tg : Target}
    (hmap : busTarget s.params (busOffset s.params addr) n = some tg) (hne : tg ≠ .cmd) :
    historyOfEvent s h (.access who (.write addr n v)) = h := by
  simp only [historyOfEvent, hmap]
  cases tg with
  | cmd => exact absurd rfl hne
  | reg r | hdrName i | expName i | pkt a | ring a => rfl

end Sys2Proof.Safety

namespace Sys2Proof.Machine

/-! ### Written-ness is kept (R37) -/

theorem KeepsWritten.commandEffect {s u : State} {i : Instr} (e : CommandEffect s i u) (c : Byte) :
    KeepsWritten s (u.setStatus c) := by
  have k := KeepsWritten.refl s
  cases e with
  | results r0 r1 r2 =>
    exact { k with status := .of, res0 := Reg.keeps_elim _ _, res1 := Reg.keeps_elim _ _, res2 := Reg.keeps_elim _ _ }
  | header hi hdr hk r0 r1 r2 =>
    exact { k with status := .of, res0 := Reg.keeps_elim _ _, res1 := Reg.keeps_elim _ _, res2 := Reg.keeps_elim _ _, hdr := hk }
  | encode plen r0 => exact (((k.setPkt _).setHdr (Header.keeps_plen _ _)).setRes0 r0).setStatus c
  | init => exact (((k.setRb _).setRing _).countDraw).setStatus c
  | deinit => exact (k.setRb _).setStatus c
  | write => exact ((k.setRing _).setRb _).setStatus c
  | consume => exact (k.setRb _).setStatus c

theorem KeepsWritten.runCommand {w : Word} {s t : State} (h : runCommand w s = .next t) : KeepsWritten s t := by
  obtain ⟨i, -, hexec⟩ | ⟨-, rfl⟩ := runCommand_next_cases h
  · obtain ⟨c, u, he, rfl⟩ := exec_next_effect hexec
    exact .commandEffect he _
  · exact { KeepsWritten.refl s with status := .of }

/-- A stored write writes one register or byte and leaves the rest as written as it was (R69). -/
theorem KeepsWritten.writeTarget {s t : State} {v : Word} {tg : Target} (h : writeTarget s v tg = some t) :
    KeepsWritten s t := by
  have k := KeepsWritten.refl s
  cases tg with
  | reg r =>
    cases r with
    | opa => cases h; exact { k with opa := .of }
    | opb => cases h; exact { k with opb := .of }
    | opc => cases h; exact { k with opc := .of }
    | hdrSrsp => cases h; exact { k with hdr := s.hdr.keeps_srsp _ }
    | hdrNbs => cases h; exact { k with hdr := { k.hdr with nbs := .of } }
    | hdrNbc => cases h; exact { k with hdr := { k.hdr with nbc := .of } }
    | hdrFmt => cases h; exact { k with hdr := s.hdr.keeps_fmt _ }
    | hdrFrame => cases h; exact { k with hdr := { k.hdr with frame := .of } }
    | status | res0 | res1 | res2 | hdrPlen | rbCap | rbHead | rbTail | rbCount | idCapMax | idMagic => cases h
  | hdrName i =>
    cases h
    refine { k with hdr := { k.hdr with name := fun j hj => ?_ } }
    by_cases hij : i.val = j.val
    · simp [hij]
    · simpa [hij] using hj
  | expName i => cases h; exact { k with }
  | pkt a => cases h; exact { k with }
  | cmd => cases h
  | ring a => cases h

/-- No step but reset leaves unwritten a register that was written (R37). -/
theorem KeepsWritten.step {s t : State} (hbus : s.bus.head? ≠ some .reset) (h : step s = .next t) : KeepsWritten s t := by
  obtain ⟨-, rfl⟩ | ⟨rest, hs, -⟩ | ⟨rest, who, addr, n, tg, v, -, -, -, rfl⟩ | ⟨rest, who, addr, n, w, -, -, hcmd⟩ |
    ⟨rest, who, addr, n, v, tg, -, -, -, hwrite⟩ := step_next_cases h
  · exact .refl _
  · simp [hs] at hbus
  · exact { KeepsWritten.refl s with }
  · exact { KeepsWritten.runCommand hcmd with }
  · exact { KeepsWritten.writeTarget hwrite with }

end Sys2Proof.Machine

namespace Sys2Proof.Proofs

/-- Settles O8: each of the five things a step can do keeps the invariant. -/
theorem everyStepKeepsTheInvariant : Obligations.EveryStepKeepsTheInvariant := by
  intro s t hinv h
  obtain ⟨-, rfl⟩ | ⟨rest, -, rfl⟩ | ⟨rest, who, addr, n, tg, v, -, -, -, rfl⟩ |
    ⟨rest, who, addr, n, w, -, -, hcmd⟩ | ⟨rest, who, addr, n, v, tg, -, hmap, -, hwrite⟩ := step_next_cases h
  · exact hinv
  · exact (hinv.setBus rest).platformReset
  · exact hinv.congr rfl rfl rfl rfl rfl
  · exact (hinv.setBus rest).runCommand hcmd
  · exact (hinv.setBus rest).writeTarget hmap hwrite

/-- Settles O9: only a ring command or a reset moves the ring, and each adds to the history what it does to the ring. -/
theorem everyStepKeepsTheRingsHistory : Obligations.EveryStepKeepsTheRingsHistory := by
  intro s t h hinv hh hstep
  obtain ⟨hbus, rfl⟩ | ⟨rest, hbus, rfl⟩ | ⟨rest, who, addr, n, tg, v, hbus, -, -, rfl⟩ |
    ⟨rest, who, addr, n, w, hbus, hmap, hcmd⟩ | ⟨rest, who, addr, n, v, tg, hbus, hmap, hne, hwrite⟩ :=
    step_next_cases hstep
  · rw [historyStep, hbus]
    exact hh
  · rw [historyStep, hbus]
    exact holdsHistory_fresh rfl _
  · rw [historyStep, hbus]
    exact hh.congr rfl rfl
  · rw [historyStep, hbus]
    exact hh.cmdWrite rest hinv hmap hcmd
  · rw [historyStep, hbus]
    have hother := writeTarget_cases hwrite
    have hh' := hh.congr (t := t) (congrArg State.rb hother :) (congrArg State.ring hother :)
    simpa only [historyOfEvent_stored hmap hne] using hh'

/-- Settles O11. -/
theorem writtenRegistersStayWritten : Obligations.WrittenRegistersStayWritten :=
  fun _ _ _ hbus hstep hwritten => (KeepsWritten.step hbus hstep).unwrittenAt_eq_false hwritten

/-- Settles O18: the operands and the host's side stand by R13's two ways to end, the rest by what each command writes. -/
theorem commandsTouchOnlyTheirOwnState : Obligations.CommandsTouchOnlyTheirOwnState := by
  intro i s t h
  refine ⟨?_, ?_⟩
  · obtain ⟨c, -, rfl⟩ | ⟨u, hu, rfl⟩ := exec_next_cases h
    · exact ⟨rfl, rfl, rfl, rfl, rfl, rfl, rfl⟩
    · rw [hu]
      exact ⟨rfl, rfl, rfl, rfl, rfl, rfl, rfl⟩
  · obtain ⟨c, u, he, rfl⟩ := exec_next_effect h
    cases he with
    | results => simp [State.withResults]
    | header hi => simp [State.withResults, hi]
    | encode => simp [ringCommands]
    | init | deinit | write | consume => simp [ringCommands]

end Sys2Proof.Proofs
end

section
/-! SUPPORT. What one host event reads, and that nothing else of an unwritten register is seen: the strict step and
noninterference (spec/10_state.md R22, R37, R38, spec/60_exceptions.md R264, R265). -/

open Sys2Proof Sys2Proof.Machine Sys2Proof.Safety Sys2Proof.Claims

namespace Sys2Proof.Machine

/-! ### One step on the access at the head of the bus -/

/-- A step is its host event, the access spent (R70). -/
theorem step_of_bus {s : State} {e : HostEvent} {rest : List HostEvent} (h : s.bus = e :: rest) :
    step s = hostEvent (s.setBus rest) e := by
  simp only [step, hostStep, h]

/-- A step on a CMD write runs the word (R22). -/
theorem step_of_cmd {s : State} {who : Agent} {w : Word} {rest : List HostEvent}
    (h : s.bus = .access who (.write s.params.base 4 w) :: rest) : step s = runCommand w (s.setBus rest) :=
  (step_of_bus h).trans (busAccess_cmd who (s.setBus rest) w)

theorem runCommand_of_decode {w : Word} {i : Instr} (h : decode w = .ok i) (s : State) : runCommand w s = exec i s := by
  simp only [runCommand, h]

/-- An offset names CMD exactly when it is 0 and the access is a word (R22, R63). -/
theorem busTarget_eq_cmd_iff (p : Config.Params) (off n : Nat) : busTarget p off n = some .cmd ↔ n = 4 ∧ off = 0 := by
  constructor
  · intro h
    unfold busTarget at h
    split at h
    · obtain ⟨-, h0⟩ | ⟨r, heq, -⟩ := wordTarget_eq_some h
      · exact ⟨‹_›, h0⟩
      · cases heq
    · split at h
      · obtain ⟨i, heq, -⟩ | ⟨i, heq, -⟩ | ⟨a, heq, -⟩ | ⟨a, heq, -⟩ := byteTarget_eq_some h <;> cases heq
      · cases h
  · rintro ⟨rfl, rfl⟩
    rfl

/-- The offset of an address is 0 exactly at BASE (R63). -/
theorem busOffset_eq_zero_iff (p : Config.Params) (addr : Word) : busOffset p addr = 0 ↔ addr = p.base := by
  unfold busOffset
  bv_omega

/-- No width makes offset 0 readable (R22). -/
theorem readTarget_base (s : State) (n : Nat) : (busTarget s.params 0 n).bind (readTarget s) = none := by
  cases h : busTarget s.params 0 n with
  | none => rfl
  | some tg =>
    unfold busTarget at h
    split at h
    · obtain rfl : Target.cmd = tg := Option.some.inj h
      rfl
    · split at h
      · rw [byteTarget_none s.params (by omega)] at h
        cases h
      · cases h

/-! ### What a host event reads -/

@[simp] theorem eventReads_setBus (s : State) (es : List HostEvent) (e : HostEvent) :
    eventReads (s.setBus es) e = eventReads s e := by
  simp only [eventReads, State.setBus_params, commandReads_setBus]

/-- The model's read list of a command is the rules' (R132–R149, R201–R213). -/
theorem commandReads_eq_ruleReads (s : State) (i : Instr) : commandReads s i = ruleReads s i := by cases i <;> rfl

/-- A host read reads the location it names, if it names one (R63). -/
theorem eventReads_read (s : State) (who : Agent) (addr : Word) (n : Nat) :
    eventReads s (.access who (.read addr n)) = (busTarget s.params (busOffset s.params addr) n).toList := by
  simp only [eventReads]
  cases busTarget s.params (busOffset s.params addr) n <;> rfl

/-- The model's read list of a host event is the rules' (R37). -/
theorem eventReads_eq_ruleEventReads (s : State) (e : HostEvent) : eventReads s e = ruleEventReads s e := by
  cases e with
  | reset => rfl
  | access who a =>
    cases a with
    | read addr n => exact eventReads_read s who addr n
    | write addr n w =>
      have hcmd := busTarget_eq_cmd_iff s.params (busOffset s.params addr) n
      rw [busOffset_eq_zero_iff] at hcmd
      simp only [eventReads, ruleEventReads, ← hcmd]
      split
      · rw [if_pos ‹_›]
        cases decode w with
        | ok i => exact commandReads_eq_ruleReads s i
        | error _ => rfl
      · rw [if_neg (by assumption)]

/-- The model's mark of an unwritten location is the rules' (R37, R38). -/
theorem unwrittenAt_iff_noValueYet (s : State) (tg : Target) : unwrittenAt s tg = true ↔ NoValueYet s tg := by
  cases tg with
  | reg r => cases r <;> simp [unwrittenAt, NoValueYet]
  | hdrName i => simp [unwrittenAt, NoValueYet]
  | cmd | expName i | pkt a | ring a => simp [unwrittenAt, NoValueYet]

end Sys2Proof.Machine

namespace Sys2Proof.Safety

/-! ### The strict step -/

/-- The strict step stops at the first unwritten location its event reads (R264 (a)). -/
theorem strictStep_of_unwritten {s : State} {e : HostEvent} {rest : List HostEvent} {tg : Target}
    (hbus : s.bus = e :: rest) (h : firstUnwritten s e = some tg) : strictStep s = .fault (.readUnwritten tg) := by
  simp only [strictStep, hbus, h]

/-- The strict step is the step where its event reads no unwritten location. -/
theorem strictStep_of_written {s : State} {e : HostEvent} {rest : List HostEvent}
    (hbus : s.bus = e :: rest) (h : firstUnwritten s e = none) : strictStep s = checked (step s) := by
  simp only [strictStep, hbus, h]

theorem firstUnwritten_eq_none_iff (s : State) (e : HostEvent) :
    firstUnwritten s e = none ↔ ∀ x ∈ eventReads s e, unwrittenAt s x = false := by
  simp [firstUnwritten]

/-! ### Two states that differ only in unwritten values -/

/-- A written register of two that look alike holds the same value in both. -/
theorem val_eq_of_written {w : Nat} {a b : Reg w} (h : forgetReg a = forgetReg b) (ha : (!a.written) = false) :
    a.val = b.val := by
  rw [(forgetReg_eq h).2 (by simpa using ha)]

/-- Two header register files that differ only in unwritten values. -/
structure HeadersAlike (h k : Header) : Prop where
  srsp : forgetReg h.srsp = forgetReg k.srsp
  nbs : forgetReg h.nbs = forgetReg k.nbs
  nbc : forgetReg h.nbc = forgetReg k.nbc
  fmt : forgetReg h.fmt = forgetReg k.fmt
  name : ∀ i : Fin 16, forgetReg h.name[i] = forgetReg k.name[i]
  frame : forgetReg h.frame = forgetReg k.frame
  plen : forgetReg h.plen = forgetReg k.plen

theorem HeadersAlike.refl (h : Header) : HeadersAlike h h := ⟨rfl, rfl, rfl, rfl, fun _ => rfl, rfl, rfl⟩

section
variable {h k : Header} (a : HeadersAlike h k)
include a

theorem HeadersAlike.setSrsp (v : Byte) : HeadersAlike { h with srsp := .of v } { k with srsp := .of v } :=
  { a with srsp := rfl }
theorem HeadersAlike.setNbs (v : Byte) : HeadersAlike { h with nbs := .of v } { k with nbs := .of v } :=
  { a with nbs := rfl }
theorem HeadersAlike.setNbc (v : Byte) : HeadersAlike { h with nbc := .of v } { k with nbc := .of v } :=
  { a with nbc := rfl }
theorem HeadersAlike.setFmt (v : Byte) : HeadersAlike { h with fmt := .of v } { k with fmt := .of v } :=
  { a with fmt := rfl }
theorem HeadersAlike.setFrame (v : Word) : HeadersAlike { h with frame := .of v } { k with frame := .of v } :=
  { a with frame := rfl }
theorem HeadersAlike.setPlen (v : Word) : HeadersAlike { h with plen := .of v } { k with plen := .of v } :=
  { a with plen := rfl }

theorem HeadersAlike.setName (i : Fin 16) (v : Byte) :
    HeadersAlike { h with name := h.name.set i (.of v) } { k with name := k.name.set i (.of v) } := by
  refine { a with name := fun j => ?_ }
  by_cases hij : i.val = j.val
  · simp [hij]
  · simpa [hij] using a.name j

end

theorem headersAlike_iff (h k : Header) : HeadersAlike h k ↔ forgetHeader h = forgetHeader k := by
  simp only [forgetHeader, Header.mk.injEq, Vector.ext_iff, Vector.getElem_map]
  constructor
  · rintro ⟨hsrsp, hnbs, hnbc, hfmt, hname, hframe, hplen⟩
    exact ⟨hsrsp, hnbs, hnbc, hfmt, fun i hi => hname ⟨i, hi⟩, hframe, hplen⟩
  · rintro ⟨hsrsp, hnbs, hnbc, hfmt, hname, hframe, hplen⟩
    exact ⟨hsrsp, hnbs, hnbc, hfmt, fun i => hname i.val i.isLt, hframe, hplen⟩

/-- Two states that differ only in unwritten values, field by field. -/
structure StatesAlike (s u : State) : Prop where
  opa : forgetReg s.opa = forgetReg u.opa
  opb : forgetReg s.opb = forgetReg u.opb
  opc : forgetReg s.opc = forgetReg u.opc
  status : forgetReg s.status = forgetReg u.status
  res0 : forgetReg s.res0 = forgetReg u.res0
  res1 : forgetReg s.res1 = forgetReg u.res1
  res2 : forgetReg s.res2 = forgetReg u.res2
  hdr : HeadersAlike s.hdr u.hdr
  expName : s.expName = u.expName
  rb : s.rb = u.rb
  pkt : s.pkt = u.pkt
  ring : s.ring = u.ring
  params : s.params = u.params
  bus : s.bus = u.bus
  replies : s.replies = u.replies
  nextDraw : s.nextDraw = u.nextDraw

theorem statesAlike_iff (s u : State) : StatesAlike s u ↔ forget s = forget u := by
  simp only [forget, State.mk.injEq, ← headersAlike_iff]
  constructor
  · rintro ⟨⟩
    simp only [*, and_self]
  · rintro ⟨hopa, hopb, hopc, hstatus, hres0, hres1, hres2, hhdr, hexp, hrb, hpkt, hring, hparams, hbus, hreplies, hdraw⟩
    exact ⟨hopa, hopb, hopc, hstatus, hres0, hres1, hres2, hhdr, hexp, hrb, hpkt, hring, hparams, hbus, hreplies, hdraw⟩

/-! ### The same update of both states -/

section
variable {s u : State} (h : StatesAlike s u)
include h

theorem StatesAlike.setOpa (v : Word) : StatesAlike (s.setOpa v) (u.setOpa v) := { h with opa := rfl }
theorem StatesAlike.setOpb (v : Word) : StatesAlike (s.setOpb v) (u.setOpb v) := { h with opb := rfl }
theorem StatesAlike.setOpc (v : Word) : StatesAlike (s.setOpc v) (u.setOpc v) := { h with opc := rfl }
theorem StatesAlike.setStatus (v : Byte) : StatesAlike (s.setStatus v) (u.setStatus v) := { h with status := rfl }
theorem StatesAlike.setRes0 (v : Word) : StatesAlike (s.setRes0 v) (u.setRes0 v) := { h with res0 := rfl }
theorem StatesAlike.setRes1 (v : Word) : StatesAlike (s.setRes1 v) (u.setRes1 v) := { h with res1 := rfl }
theorem StatesAlike.setRes2 (v : Word) : StatesAlike (s.setRes2 v) (u.setRes2 v) := { h with res2 := rfl }
theorem StatesAlike.setExpName (n : Vector Byte 16) : StatesAlike (s.setExpName n) (u.setExpName n) :=
  { h with expName := rfl }
theorem StatesAlike.setRb (r : RingRegs) : StatesAlike (s.setRb r) (u.setRb r) := { h with rb := rfl }
theorem StatesAlike.setPkt (m : Memory) : StatesAlike (s.setPkt m) (u.setPkt m) := { h with pkt := rfl }
theorem StatesAlike.setRing (m : Memory) : StatesAlike (s.setRing m) (u.setRing m) := { h with ring := rfl }
theorem StatesAlike.setBus (es : List HostEvent) : StatesAlike (s.setBus es) (u.setBus es) := { h with bus := rfl }

theorem StatesAlike.setHdr {k l : Header} (hk : HeadersAlike k l) : StatesAlike (s.setHdr k) (u.setHdr l) :=
  { h with hdr := hk }

theorem StatesAlike.pushReply (r : Reply) : StatesAlike (s.pushReply r) (u.pushReply r) :=
  { h with replies := congrArg (r :: ·) h.replies }

theorem StatesAlike.countDraw : StatesAlike s.countDraw u.countDraw :=
  { h with nextDraw := congrArg (· + 1) h.nextDraw }

theorem StatesAlike.setResults (a b c : Word) : StatesAlike (s.setResults a b c) (u.setResults a b c) :=
  ((h.setRes0 a).setRes1 b).setRes2 c

/-! ### The same reads of both states -/

theorem StatesAlike.operandA_eq (hw : unwrittenAt s (.reg .opa) = false) : operandA s = operandA u :=
  congrArg BitVec.toNat (val_eq_of_written h.opa hw)

theorem StatesAlike.operandB_eq (hw : unwrittenAt s (.reg .opb) = false) : operandB s = operandB u :=
  congrArg BitVec.toNat (val_eq_of_written h.opb hw)

theorem StatesAlike.operandC_eq (hw : unwrittenAt s (.reg .opc) = false) : operandC s = operandC u :=
  congrArg BitVec.toNat (val_eq_of_written h.opc hw)

/-- A written location reads the same in both states (R37). -/
theorem StatesAlike.readTarget_eq {tg : Target} (hw : unwrittenAt s tg = false) : readTarget s tg = readTarget u tg := by
  cases tg with
  | cmd => rfl
  | reg r =>
    refine congrArg some ?_
    cases r with
    | opa => exact val_eq_of_written h.opa hw
    | opb => exact val_eq_of_written h.opb hw
    | opc => exact val_eq_of_written h.opc hw
    | status => exact congrArg zextByte (val_eq_of_written h.status hw)
    | res0 => exact val_eq_of_written h.res0 hw
    | res1 => exact val_eq_of_written h.res1 hw
    | res2 => exact val_eq_of_written h.res2 hw
    | hdrSrsp => exact congrArg zextByte (val_eq_of_written h.hdr.srsp hw)
    | hdrNbs => exact congrArg zextByte (val_eq_of_written h.hdr.nbs hw)
    | hdrNbc => exact congrArg zextByte (val_eq_of_written h.hdr.nbc hw)
    | hdrFmt => exact congrArg zextByte (val_eq_of_written h.hdr.fmt hw)
    | hdrFrame => exact val_eq_of_written h.hdr.frame hw
    | hdrPlen => exact val_eq_of_written h.hdr.plen hw
    | rbCap | rbHead | rbTail | rbCount => simp only [readReg, h.rb]
    | idCapMax | idMagic => simp only [readReg, h.params]
  | hdrName i => exact congrArg (fun b => some (zextByte b)) (val_eq_of_written (h.hdr.name i) hw)
  | expName i => simp only [readTarget, h.expName]
  | pkt a => simp only [readTarget, h.pkt]
  | ring a => simp only [readTarget, h.rb, h.ring]

/-- Where every header register but HDR_PLEN is written, both states encode the same header image (R137). -/
theorem StatesAlike.hdrBytes_eq (hsrsp : unwrittenAt s (.reg .hdrSrsp) = false) (hnbs : unwrittenAt s (.reg .hdrNbs) = false)
    (hnbc : unwrittenAt s (.reg .hdrNbc) = false) (hfmt : unwrittenAt s (.reg .hdrFmt) = false)
    (hname : ∀ i : Fin 16, unwrittenAt s (.hdrName i) = false) (hframe : unwrittenAt s (.reg .hdrFrame) = false) :
    hdrBytes s.params s.hdr = hdrBytes u.params u.hdr := by
  have names : s.hdr.name.toList.map Reg.val = u.hdr.name.toList.map Reg.val := by
    refine List.ext_getElem (by simp) fun i hi _ => ?_
    have hlt : i < 16 := by simpa using hi
    simpa using val_eq_of_written (h.hdr.name ⟨i, hlt⟩) (hname ⟨i, hlt⟩)
  simp only [hdrBytes, h.params, names, val_eq_of_written h.hdr.srsp hsrsp, val_eq_of_written h.hdr.nbs hnbs,
    val_eq_of_written h.hdr.nbc hnbc, val_eq_of_written h.hdr.fmt hfmt, val_eq_of_written h.hdr.frame hframe]

end

/-! ### Outcomes that look alike -/

/-- Two outcomes that a program cannot tell apart by written values: alike next states, or one and the same fault. -/
inductive OutcomesAlike : Host.Outcome State Fault Refusal → Host.Outcome State Fault Refusal → Prop where
  | next {s u : State} (h : StatesAlike s u) : OutcomesAlike (.next s) (.next u)
  | fault (f : Fault) : OutcomesAlike (.fault f) (.fault f)

theorem OutcomesAlike.finished {s u : State} (h : StatesAlike s u) : OutcomesAlike (finishOk s) (finishOk u) :=
  .next (h.setStatus _)

theorem OutcomesAlike.failed {s u : State} (h : StatesAlike s u) (c : StatusCode) : OutcomesAlike (fail c s) (fail c u) :=
  .next (h.setStatus _)

/-- A check that reads the same in both states. -/
theorem OutcomesAlike.ite {p : Prop} [Decidable p] {a b a' b' : Host.Outcome State Fault Refusal}
    (ha : OutcomesAlike a a') (hb : OutcomesAlike b b') : OutcomesAlike (if p then a else b) (if p then a' else b') := by
  split
  · exact ha
  · exact hb

/-- HDR_ENCODE reads the header registers only where its length is legal (R141). -/
theorem StatesAlike.hdrEncode {s u : State} (h : StatesAlike s u)
    (hreads : ∀ x ∈ commandReads s .hdrEncode, unwrittenAt s x = false) :
    OutcomesAlike (execHdrEncode s) (execHdrEncode u) := by
  have hA := h.operandA_eq (hreads _ (by simp only [commandReads]; split <;> simp))
  by_cases hlen : operandA u > Config.maxPayload
  · simp only [execHdrEncode, hA, if_pos hlen]
    exact .failed h _
  · simp only [commandReads, hA, if_neg hlen, nameTargets] at hreads
    have hbytes : hdrBytes s.params s.hdr = hdrBytes u.params u.hdr :=
      h.hdrBytes_eq (hreads _ (by simp)) (hreads _ (by simp)) (hreads _ (by simp)) (hreads _ (by simp))
        (fun i => hreads _ (by simp)) (hreads _ (by simp))
    simp only [execHdrEncode, hA, if_neg hlen, h.pkt, hbytes]
    exact .finished (((h.setPkt _).setHdr (h.hdr.setPlen _)).setRes0 _)

/-- RX_CLASSIFY reads no header register: a decode replaces them all (R149). -/
theorem StatesAlike.rxClassify {s u : State} (h : StatesAlike s u) (hA : operandA s = operandA u) :
    OutcomesAlike (execRxClassify s) (execRxClassify u) := by
  have hdecoded : decodedHeader u.pkt s.hdr (operandA u) = decodedHeader u.pkt u.hdr (operandA u) := rfl
  simp only [execRxClassify, hA, h.expName, h.pkt, h.params, hdecoded]
  refine .ite (.failed h _) (.ite (.failed h _) (.ite ?short (.ite ?magic ?decoded)))
  case short => exact .finished (h.setResults _ _ _)
  case magic => exact .finished (h.setResults _ _ _)
  case decoded => exact .finished ((h.setHdr (.refl _)).setResults _ _ _)

open OutcomesAlike in
/-- A command that reads no unwritten register answers alike: each check and each effect reads the same in both states. -/
theorem StatesAlike.exec {s u : State} (h : StatesAlike s u) (i : Instr)
    (hreads : ∀ x ∈ commandReads s i, unwrittenAt s x = false) : OutcomesAlike (exec i s) (exec i u) := by
  have hA (hmem : .reg .opa ∈ commandReads s i) := h.operandA_eq (hreads _ hmem)
  have hB (hmem : .reg .opb ∈ commandReads s i) := h.operandB_eq (hreads _ hmem)
  have hC (hmem : .reg .opc ∈ commandReads s i) := h.operandC_eq (hreads _ hmem)
  cases i with
  | hdrDecode =>
    simp only [Machine.exec, execHdrDecode, hA (by simp [commandReads]), h.pkt, h.params]
    exact ite (failed h _) (ite (failed h _) (ite (failed h _) (finished (((h.setHdr (.refl _)).setRes0 _).setRes1 _))))
  | hdrEncode => exact h.hdrEncode hreads
  | packSrsp =>
    simp only [Machine.exec, execPackSrsp, hA (by simp [commandReads]), hB (by simp [commandReads])]
    exact ite (finished ((h.setHdr (h.hdr.setSrsp _)).setRes0 _)) (failed h _)
  | packFmt =>
    simp only [Machine.exec, execPackFmt, hA (by simp [commandReads]), hB (by simp [commandReads]),
      hC (by simp [commandReads])]
    exact ite (finished ((h.setHdr (h.hdr.setFmt _)).setRes0 _)) (failed h _)
  | unpackSrsp =>
    have hb := val_eq_of_written h.hdr.srsp (hreads (.reg .hdrSrsp) (by simp [commandReads]))
    simp only [Machine.exec, execUnpackSrsp, hb]
    exact finished ((h.setRes0 _).setRes1 _)
  | unpackFmt =>
    have hb := val_eq_of_written h.hdr.fmt (hreads (.reg .hdrFmt) (by simp [commandReads]))
    simp only [Machine.exec, execUnpackFmt, hb]
    exact finished (h.setResults _ _ _)
  | srToHz =>
    simp only [Machine.exec, execSrToHz, hA (by simp [commandReads])]
    exact finished (h.setRes0 _)
  | hzToSr =>
    simp only [Machine.exec, execHzToSr, hA (by simp [commandReads]), h.params]
    cases hzToSr (operandA u) with
    | some i => exact finished (h.setRes0 _)
    | none => exact finished (h.setRes0 _)
  | dtSize =>
    simp only [Machine.exec, execDtSize, hA (by simp [commandReads])]
    exact finished (h.setRes0 _)
  | expectLen =>
    have hnbs := val_eq_of_written h.hdr.nbs (hreads (.reg .hdrNbs) (by simp [commandReads]))
    have hnbc := val_eq_of_written h.hdr.nbc (hreads (.reg .hdrNbc) (by simp [commandReads]))
    have hfmt := val_eq_of_written h.hdr.fmt (hreads (.reg .hdrFmt) (by simp [commandReads]))
    have hplen := val_eq_of_written h.hdr.plen (hreads (.reg .hdrPlen) (by simp [commandReads]))
    simp only [Machine.exec, execExpectLen, hnbs, hnbc, hfmt, hplen]
    exact finished ((h.setRes0 _).setRes1 _)
  | rxClassify => exact h.rxClassify (hA (by simp [commandReads]))
  | rbInit =>
    simp only [Machine.exec, execRbInit, hA (by simp [commandReads]), h.params, h.ring, h.nextDraw]
    exact ite (failed h _) (ite (failed h _) (finished ((h.setRb _).setRing _).countDraw))
  | rbDeinit => exact finished (h.setRb _)
  | rbWrite =>
    simp only [Machine.exec, execRbWrite, hA (by simp [commandReads]), hB (by simp [commandReads]), h.rb, h.ring, h.pkt]
    exact ite (finished h) (ite (failed h _) (ite (failed h _) (finished ((h.setRing _).setRb _))))
  | rbRegion =>
    simp only [Machine.exec, execRbRegion, h.rb]
    exact ite (finished (h.setResults _ _ _)) (finished (h.setResults _ _ _))
  | rbConsume =>
    simp only [Machine.exec, execRbConsume, hA (by simp [commandReads]), h.rb]
    exact ite (finished h) (ite (failed h _) (finished (h.setRb _)))
  | rbCount | rbCapacity | rbFree | rbEmpty | rbFull =>
    simp only [Machine.exec, execRbCount, execRbCapacity, execRbFree, execRbEmpty, execRbFull, h.rb]
    exact finished (h.setRes0 _)

/-- A stored write is taken in both states or in neither, and stores the same (R69). -/
theorem StatesAlike.writeTarget {s u : State} (h : StatesAlike s u) (v : Word) (tg : Target) :
    (writeTarget s v tg = none ∧ writeTarget u v tg = none) ∨
    ∃ s' u', writeTarget s v tg = some s' ∧ writeTarget u v tg = some u' ∧ StatesAlike s' u' := by
  cases tg with
  | cmd | ring a => exact .inl ⟨rfl, rfl⟩
  | reg r =>
    cases r with
    | opa => exact .inr ⟨_, _, rfl, rfl, h.setOpa v⟩
    | opb => exact .inr ⟨_, _, rfl, rfl, h.setOpb v⟩
    | opc => exact .inr ⟨_, _, rfl, rfl, h.setOpc v⟩
    | hdrSrsp => exact .inr ⟨_, _, rfl, rfl, h.setHdr (h.hdr.setSrsp _)⟩
    | hdrNbs => exact .inr ⟨_, _, rfl, rfl, h.setHdr (h.hdr.setNbs _)⟩
    | hdrNbc => exact .inr ⟨_, _, rfl, rfl, h.setHdr (h.hdr.setNbc _)⟩
    | hdrFmt => exact .inr ⟨_, _, rfl, rfl, h.setHdr (h.hdr.setFmt _)⟩
    | hdrFrame => exact .inr ⟨_, _, rfl, rfl, h.setHdr (h.hdr.setFrame _)⟩
    | status | res0 | res1 | res2 | hdrPlen | rbCap | rbHead | rbTail | rbCount | idCapMax | idMagic =>
      exact .inl ⟨rfl, rfl⟩
  | hdrName i => exact .inr ⟨_, _, rfl, rfl, h.setHdr (h.hdr.setName i _)⟩
  | expName i =>
    refine .inr ⟨_, _, rfl, rfl, ?_⟩
    rw [h.expName]
    exact h.setExpName _
  | pkt a =>
    refine .inr ⟨_, _, rfl, rfl, ?_⟩
    rw [h.pkt]
    exact h.setPkt _

theorem StatesAlike.runCommand {s u : State} (h : StatesAlike s u) (w : Word)
    (hreads : ∀ i, decode w = .ok i → ∀ x ∈ commandReads s i, unwrittenAt s x = false) :
    OutcomesAlike (runCommand w s) (runCommand w u) := by
  unfold Machine.runCommand
  cases hdec : decode w with
  | ok i => exact h.exec i (hreads i hdec)
  | error _ => exact .failed h _

theorem StatesAlike.platformReset {s u : State} (h : StatesAlike s u) :
    StatesAlike (platformReset s) (platformReset u) := by
  rw [statesAlike_iff]
  simp only [Machine.platformReset, h.nextDraw, h.params, h.bus, h.replies]

/-- A host event that reads no unwritten location answers alike (R37). -/
theorem StatesAlike.hostEvent {s u : State} (h : StatesAlike s u) (e : HostEvent)
    (hreads : ∀ x ∈ eventReads s e, unwrittenAt s x = false) : OutcomesAlike (hostEvent s e) (hostEvent u e) := by
  cases e with
  | reset => exact .next h.platformReset
  | access who a =>
    cases a with
    | read addr n =>
      rw [eventReads_read] at hreads
      simp only [Machine.hostEvent, busAccess, ← h.params]
      cases hmap : busTarget s.params (busOffset s.params addr) n with
      | none => exact .fault _
      | some tg =>
        have hread : readTarget s tg = readTarget u tg := h.readTarget_eq (hreads tg (by simp [hmap]))
        simp only [Option.bind_some, ← hread]
        cases readTarget s tg with
        | none => exact .fault _
        | some v => exact .next (h.pushReply _)
    | write addr n v =>
      simp only [eventReads] at hreads
      simp only [Machine.hostEvent, busAccess, ← h.params]
      split
      · rename_i hmap
        refine h.runCommand v fun i hdec => ?_
        simpa only [hmap, hdec] using hreads
      · rename_i tg _ hmap
        obtain ⟨hs, hu⟩ | ⟨s', u', hs, hu, halike⟩ := h.writeTarget v tg
        · simp only [hs, hu]
          exact .fault _
        · simp only [hs, hu]
          exact .next halike
      · exact .fault _

end Sys2Proof.Safety

namespace Sys2Proof.Proofs

/-- Settles O12: the two states run the same event, and every value it reads is written and so the same in both. -/
theorem unwrittenValuesAreNotObservable : Obligations.UnwrittenValuesAreNotObservable := by
  intro s u e rest hforget hbus hfirst
  have halike : StatesAlike s u := (statesAlike_iff s u).2 hforget
  have hreads : ∀ x ∈ eventReads (s.setBus rest) e, unwrittenAt (s.setBus rest) x = false := by
    simpa only [eventReads_setBus, unwrittenAt_setBus] using (firstUnwritten_eq_none_iff s e).1 hfirst
  have houtcomes := (halike.setBus rest).hostEvent e hreads
  rw [step_of_bus hbus, step_of_bus (halike.bus ▸ hbus : u.bus = e :: rest)]
  generalize hostEvent (s.setBus rest) e = os, hostEvent (u.setBus rest) e = ou at houtcomes
  cases houtcomes with
  | next h => exact .inl ⟨_, _, rfl, rfl, (statesAlike_iff _ _).1 h⟩
  | fault f => exact .inr ⟨f, rfl, rfl⟩

/-- Settles O55: the model's read list is the rules', and the strict step looks for its first unwritten entry. -/
theorem strictStepStopsAtTheFirstUnwrittenRead : Obligations.StrictStepStopsAtTheFirstUnwrittenRead := by
  intro s e rest hbus
  refine ⟨fun before after t hreads hbefore ht => ?_, fun hall => ?_⟩
  · refine strictStep_of_unwritten hbus ?_
    rw [firstUnwritten, eventReads_eq_ruleEventReads, List.find?_eq_some_iff_append]
    refine ⟨(unwrittenAt_iff_noValueYet s t).2 ht, before, after, hreads, fun x hx => ?_⟩
    have := hbefore x hx
    simpa [← unwrittenAt_iff_noValueYet] using this
  · refine strictStep_of_written hbus ?_
    rw [firstUnwritten_eq_none_iff, eventReads_eq_ruleEventReads]
    intro x hx
    simpa [← unwrittenAt_iff_noValueYet] using hall x hx

/-- Settles O1. -/
theorem writtenCommandWordRuns : Obligations.WrittenCommandWordRuns := by
  intro s who rest
  refine ⟨fun w i hbus hdec _ => ?_, fun n hbus => ?_⟩
  · rw [step_of_cmd hbus, runCommand_of_decode hdec]
    rfl
  · rw [step_of_bus hbus]
    simp only [hostEvent, busAccess, State.setBus_params, busOffset_base]
    have hread := readTarget_base (s.setBus rest) n
    rw [State.setBus_params] at hread
    rw [hread]

/-- Settles O5: each piece of state is read off State.reset; PKT and RING are draws 0 and 1. -/
theorem resetLeavesTheStatedValues : Obligations.ResetLeavesTheStatedValues where
  operands := ⟨rfl, rfl, rfl⟩
  status := rfl
  results := ⟨rfl, rfl, rfl⟩
  header := ⟨rfl, rfl, rfl, rfl, rfl, rfl⟩
  name := by decide
  expName := by decide
  ringRegs := ⟨rfl, rfl, rfl, rfl⟩
  memories := ⟨0, 1, by decide, Memory.read_drawn 0, Memory.read_drawn 1⟩
  parameters := ⟨rfl, rfl⟩

/-- Settles O7: the uninitialised ring meets R33 and holds the empty history. -/
theorem resetStateMeetsTheInvariant : Obligations.ResetStateMeetsTheInvariant :=
  ⟨{ ringRegs := ringRegsInv_empty (Nat.zero_le _)
     params := by decide
     status := by decide
     pkt := Memory.wf_drawn _ _
     ring := Memory.wf_drawn _ _ },
    holdsHistory_fresh rfl 0⟩

/-- Settles O13: the CMD write of a command's word reads, at reset, what the command reads; the first of it, if any, is
unwritten. -/
theorem strictStepStopsUnwrittenReadsAtReset : Obligations.StrictStepStopsUnwrittenReadsAtReset := by
  intro i
  have hword : tableWord 32 (encode i).toNat = encode i := by cases i <;> rfl
  have hdec : decode (encode i) = .ok i := by cases i <;> rfl
  have hbus : (State.reset.withFetchWord 32 (encode i).toNat).bus =
      .access .producer (.write State.reset.params.base 4 (encode i)) :: [] := by
    simp only [State.withFetchWord, pushCommand, hword]
    rfl
  have hfirst : firstUnwritten (State.reset.withFetchWord 32 (encode i).toNat)
      (.access .producer (.write State.reset.params.base 4 (encode i))) = firstReadAtReset i := by
    cases i <;> rfl
  cases htg : firstReadAtReset i with
  | some tg => exact strictStep_of_unwritten hbus (hfirst.trans htg)
  | none =>
    rw [strictStep_of_written hbus (hfirst.trans htg), step_of_cmd hbus, runCommand_of_decode hdec]
    rfl

end Sys2Proof.Proofs
end

section
/-! SUPPORT. The address map and the host's accesses: where a read answers, where a write is taken, and that a read
returns what was written (spec/20_memory.md R63, R66, R68, R69, R71). -/

open Sys2Proof Sys2Proof.Machine Sys2Proof.Claims

namespace Sys2Proof.Machine

/-! ### The rows of the address map (R63, R66) -/

/-- The rows of the address map: a target, its offset and the width of its row. -/
inductive MapRow (p : Config.Params) : Target → Nat → Nat → Prop where
  | cmd : MapRow p .cmd 0 4
  | reg (r : WordReg) : MapRow p (.reg r) (regOffset r) 4
  | hdrName (i : Fin 16) : MapRow p (.hdrName i) (0x40 + i.val) 1
  | expName (i : Fin 16) : MapRow p (.expName i) (0x50 + i.val) 1
  | pkt {a : Nat} (h : a < 1464) : MapRow p (.pkt a) (0x1000 + a) 1
  | ring {a : Nat} (h : a < 2 * p.capMax.toNat) : MapRow p (.ring a) (0x10000 + a) 1

/-- The model's address map has these rows and no other. -/
theorem busTarget_eq_some_iff {p : Config.Params} {off n : Nat} {tg : Target} :
    busTarget p off n = some tg ↔ MapRow p tg off n := by
  constructor
  · intro h
    unfold busTarget at h
    split at h
    · subst n
      obtain ⟨rfl, rfl⟩ | ⟨r, rfl, rfl⟩ := wordTarget_eq_some h
      · exact .cmd
      · exact .reg r
    · split at h
      · subst n
        obtain ⟨i, rfl, rfl⟩ | ⟨i, rfl, rfl⟩ | ⟨a, rfl, rfl, ha⟩ | ⟨a, rfl, rfl, ha⟩ := byteTarget_eq_some h
        · exact .hdrName i
        · exact .expName i
        · exact .pkt ha
        · exact .ring ha
      · cases h
  · intro h
    cases h with
    | cmd => rfl
    | reg r => exact wordTarget_regOffset r
    | hdrName i => exact byteTarget_hdrName p i
    | expName i => exact byteTarget_expName p i
    | pkt ha => exact byteTarget_pkt p ha
    | ring ha => exact byteTarget_ring p ha

/-- The word rows of R63 pair each register with its offset. -/
theorem mem_wordRows_iff {off : Nat} {r : WordReg} : (off, r) ∈ wordRows ↔ off = regOffset r := by
  constructor
  · have paired : ∀ x ∈ wordRows, x.1 = regOffset x.2 := by decide
    exact paired (off, r)
  · rintro rfl
    cases r <;> decide

/-- The byte row that holds an offset of HDR_NAME, CFG_EXPNAME or PKT. -/
theorem exists_byteRow (p : Config.Params) {off : Nat} (h : 0x40 ≤ off ∧ off < 0x60 ∨ 0x1000 ≤ off ∧ off < 0x15B8) :
    (∃ i, MapRow p (.hdrName i) off 1) ∨ (∃ i, MapRow p (.expName i) off 1) ∨ ∃ a, MapRow p (.pkt a) off 1 := by
  obtain hname | hexp | hpkt : off < 0x50 ∨ (0x50 ≤ off ∧ off < 0x60) ∨ 0x1000 ≤ off := by omega
  · obtain ⟨i, rfl⟩ : ∃ i : Fin 16, off = 0x40 + i.val := ⟨⟨off - 0x40, by omega⟩, by simp only; omega⟩
    exact .inl ⟨i, .hdrName i⟩
  · obtain ⟨i, rfl⟩ : ∃ i : Fin 16, off = 0x50 + i.val := ⟨⟨off - 0x50, by omega⟩, by simp only; omega⟩
    exact .inr (.inl ⟨i, .expName i⟩)
  · obtain ⟨a, rfl⟩ : ∃ a, off = 0x1000 + a := ⟨off - 0x1000, by omega⟩
    exact .inr (.inr ⟨a, .pkt (by omega)⟩)

/-! ### Host reads -/

theorem zextByte_eq_ofNat (b : Byte) : zextByte b = BitVec.ofNat 32 b.toNat := by
  apply BitVec.eq_of_toNat_eq
  have := b.isLt
  simp only [zextByte_toNat, BitVec.toNat_ofNat]
  omega

/-- The model's value of a word register is the rules' (R22–R34). -/
theorem readReg_eq_wordValue (s : State) (r : WordReg) : readReg s r = wordValue s r := by
  cases r with
  | status | hdrSrsp | hdrNbs | hdrNbc | hdrFmt => exact zextByte_eq_ofNat _
  | _ => rfl

@[simp] theorem readTarget_setBus (s : State) (es : List HostEvent) (tg : Target) :
    readTarget (s.setBus es) tg = readTarget s tg := by
  cases tg with
  | reg r => cases r <;> rfl
  | _ => rfl

/-- What a target reads as is what the rules answer there (R69). -/
theorem readAnswers_of_readTarget {s : State} {tg : Target} {v : Word} (h : readTarget s tg = some v) :
    ReadAnswers s v tg := by
  cases tg with
  | cmd => cases h
  | reg r => cases h; exact readReg_eq_wordValue s r
  | hdrName i => cases h; exact zextByte_eq_ofNat _
  | expName i => cases h; exact zextByte_eq_ofNat _
  | pkt a => cases h; exact zextByte_eq_ofNat _
  | ring a =>
    obtain ⟨-, hv⟩ := Option.ite_none_right_eq_some.1 h
    cases hv
    exact zextByte_eq_ofNat _

/-- RING reads inside live storage (R68). -/
theorem readTarget_ring {s : State} {a : Nat} (h : a < 2 * s.rb.cap.toNat) :
    readTarget s (.ring a) = some (zextByte (s.ring.read a)) := if_pos h

/-- An offset and a width at which R66 and R68 let a host read: the word rows but CMD's, the byte arrays, and live
RING. -/
def ReadableAt (s : State) (off n : Nat) : Prop :=
  n = 4 ∧ off % 4 = 0 ∧ (0x4 ≤ off ∧ off < 0x38 ∨ 0x60 ≤ off ∧ off < 0x78) ∨
    n = 1 ∧ (0x40 ≤ off ∧ off < 0x60 ∨ 0x1000 ≤ off ∧ off < 0x15B8 ∨
      0x10000 ≤ off ∧ off < 0x10000 + 2 * min s.rb.cap.toNat s.params.capMax.toNat)

/-- The model reads exactly there. -/
theorem readableAt_iff (s : State) (off n : Nat) :
    ReadableAt s off n ↔ ∃ tg v, busTarget s.params off n = some tg ∧ readTarget s tg = some v := by
  simp only [busTarget_eq_some_iff]
  constructor
  · rintro (⟨rfl, hword⟩ | ⟨rfl, hbyte⟩)
    · obtain ⟨r, hr⟩ := (wordTarget_reg_iff off).2 hword
      exact ⟨.reg r, _, busTarget_eq_some_iff.1 hr, rfl⟩
    · obtain harray | hring : (0x40 ≤ off ∧ off < 0x60 ∨ 0x1000 ≤ off ∧ off < 0x15B8) ∨ 0x10000 ≤ off := by omega
      · obtain ⟨i, row⟩ | ⟨i, row⟩ | ⟨a, row⟩ := exists_byteRow s.params harray
        · exact ⟨_, _, row, rfl⟩
        · exact ⟨_, _, row, rfl⟩
        · exact ⟨_, _, row, rfl⟩
      · obtain ⟨a, rfl⟩ : ∃ a, off = 0x10000 + a := ⟨off - 0x10000, by omega⟩
        exact ⟨.ring a, _, .ring (by omega), readTarget_ring (by omega)⟩
  · rintro ⟨tg, v, row, hread⟩
    unfold ReadableAt
    cases row with
    | cmd => cases hread
    | reg r => exact .inl ⟨rfl, (wordTarget_reg_iff _).1 ⟨r, wordTarget_regOffset r⟩⟩
    | hdrName i => omega
    | expName i => omega
    | pkt ha => omega
    | ring ha =>
      obtain ⟨hlive, -⟩ := Option.ite_none_right_eq_some.1 hread
      omega

section
variable {s : State} {who : Agent} {addr : Word} {n : Nat} {rest : List HostEvent}

/-- A step on a host read of a readable target answers its value (R69). -/
theorem step_of_read {tg : Target} {v : Word} (hbus : s.bus = .access who (.read addr n) :: rest)
    (hmap : busTarget s.params (busOffset s.params addr) n = some tg) (hread : readTarget s tg = some v) :
    step s = .next ((s.setBus rest).pushReply { who := who, addr := addr, n := n, val := v }) := by
  simp only [step_of_bus hbus, hostEvent, busAccess, State.setBus_params, hmap, Option.bind_some, readTarget_setBus, hread]

/-- A step on a host read anywhere else is a bus fault (R68). -/
theorem step_of_unreadable (hbus : s.bus = .access who (.read addr n) :: rest)
    (h : ¬ ReadableAt s (busOffset s.params addr) n) :
    step s = .fault (.busFault who (busOffset s.params addr) n .read) := by
  have hnone : (busTarget s.params (busOffset s.params addr) n).bind (readTarget (s.setBus rest)) = none := by
    rw [Option.eq_none_iff_forall_ne_some]
    intro v hv
    obtain ⟨tg, hmap, hread⟩ := Option.bind_eq_some_iff.1 hv
    exact h ((readableAt_iff s _ n).2 ⟨tg, v, hmap, by simpa using hread⟩)
  simp only [step_of_bus hbus, hostEvent, busAccess, State.setBus_params, hnone]

/-- A step on a host read at a row's own address answers the row's value (R63, R69). -/
theorem step_of_read_row {tg : Target} {off : Nat} {v : Word}
    (hbus : s.bus = .access who (.read (s.params.base + BitVec.ofNat 32 off) n) :: rest) (hoff : off < 2 ^ 32)
    (row : MapRow s.params tg off n) (hread : readTarget s tg = some v) :
    step s = .next ((s.setBus rest).pushReply
      { who := who, addr := s.params.base + BitVec.ofNat 32 off, n := n, val := v }) := by
  refine step_of_read hbus ?_ hread
  rw [busOffset_add s.params hoff]
  exact busTarget_eq_some_iff.2 row

end

/-! ### Host writes -/

theorem writeTarget_bus {s t : State} {v : Word} {tg : Target} (h : writeTarget s v tg = some t) : t.bus = s.bus :=
  (congrArg State.bus (writeTarget_cases h) :)

theorem writeTarget_replies {s t : State} {v : Word} {tg : Target} (h : writeTarget s v tg = some t) :
    t.replies = s.replies :=
  (congrArg State.replies (writeTarget_cases h) :)

/-- A stored write leaves its value at the target and everything else as it was (R69). -/
theorem writeLeaves_of_writeTarget {s t : State} {v : Word} {tg : Target} (h : writeTarget s v tg = some t) :
    WriteLeaves s t v tg := by
  cases tg with
  | reg r => cases r <;> cases h <;> rfl
  | hdrName i =>
    cases h
    refine ⟨rfl, by simp, fun j hj => ?_⟩
    simp [Fin.val_ne_of_ne hj.symm]
  | expName i =>
    cases h
    refine ⟨rfl, by simp, fun j hj => ?_⟩
    simp [Fin.val_ne_of_ne hj.symm]
  | pkt a =>
    cases h
    refine ⟨rfl, ?_, fun x hx => ?_⟩
    · exact (Memory.read_write _ _ _ _).trans (if_pos rfl)
    · exact (Memory.read_write _ _ _ _).trans (if_neg hx)
  | cmd => cases h
  | ring a => cases h

/-- An offset and a width at which R66 and R68 let a host write store its value: the writable word rows but CMD's, and
the byte arrays but RING. -/
def StorableAt (off n : Nat) : Prop :=
  n = 4 ∧ off % 4 = 0 ∧ (0x4 ≤ off ∧ off < 0x10 ∨ 0x20 ≤ off ∧ off < 0x34) ∨
    n = 1 ∧ (0x40 ≤ off ∧ off < 0x60 ∨ 0x1000 ≤ off ∧ off < 0x15B8)

/-- The model stores exactly there. -/
theorem storableAt_iff (s : State) (v : Word) (off n : Nat) :
    StorableAt off n ↔ ∃ tg t, busTarget s.params off n = some tg ∧ writeTarget s v tg = some t := by
  simp only [busTarget_eq_some_iff]
  constructor
  · rintro (⟨rfl, halign, hword⟩ | ⟨rfl, harray⟩)
    · obtain ⟨r, hr⟩ := (wordTarget_reg_iff off).2 ⟨halign, by omega⟩
      have row := busTarget_eq_some_iff.1 ((busTarget_four s.params off).trans hr)
      obtain rfl : off = regOffset r := by cases row; rfl
      obtain ⟨t, ht⟩ := Option.isSome_iff_exists.1 ((writeReg_isSome s v r).2 hword)
      exact ⟨.reg r, t, row, ht⟩
    · obtain ⟨i, row⟩ | ⟨i, row⟩ | ⟨a, row⟩ := exists_byteRow s.params harray
      · exact ⟨_, _, row, rfl⟩
      · exact ⟨_, _, row, rfl⟩
      · exact ⟨_, _, row, rfl⟩
  · rintro ⟨tg, t, row, hwrite⟩
    unfold StorableAt
    cases row with
    | cmd => cases hwrite
    | reg r =>
      obtain ⟨halign, -⟩ := (wordTarget_reg_iff _).1 ⟨r, wordTarget_regOffset r⟩
      exact .inl ⟨rfl, halign, (writeReg_isSome s v r).1 (Option.isSome_of_eq_some hwrite)⟩
    | hdrName i => omega
    | expName i => omega
    | pkt ha => omega
    | ring ha => cases hwrite

/-- A CMD write of any word is taken (R22, R103, R315). -/
theorem exists_runCommand_next (w : Word) (s : State) : ∃ t, runCommand w s = .next t := by
  unfold runCommand
  split
  · obtain ⟨c, u, -, h⟩ := exec_answers ‹_› s
    exact ⟨_, h⟩
  · exact ⟨_, rfl⟩

section
variable {s : State} {who : Agent} {addr v : Word} {n : Nat} {rest : List HostEvent}

/-- A step on a host write of a writable target stores its value (R69). -/
theorem step_of_write {t : State} {tg : Target} (hbus : s.bus = .access who (.write addr n v) :: rest)
    (hmap : busTarget s.params (busOffset s.params addr) n = some tg)
    (hwrite : writeTarget (s.setBus rest) v tg = some t) : step s = .next t := by
  simp only [step_of_bus hbus, hostEvent, busAccess, State.setBus_params, hmap]
  cases tg with
  | cmd => cases hwrite
  | _ => simp only [hwrite]

/-- A step on a host write that is neither CMD's nor stored is a bus fault (R68). -/
theorem step_of_unwritable (hbus : s.bus = .access who (.write addr n v) :: rest)
    (hcmd : ¬ (n = 4 ∧ busOffset s.params addr = 0)) (h : ¬ StorableAt (busOffset s.params addr) n) :
    step s = .fault (.busFault who (busOffset s.params addr) n .write) := by
  simp only [step_of_bus hbus, hostEvent, busAccess, State.setBus_params]
  split
  · exact absurd ((busTarget_eq_cmd_iff _ _ _).1 ‹_›) hcmd
  · split
    · exact absurd ((storableAt_iff (s.setBus rest) v _ n).2 ⟨_, _, ‹_›, ‹_›⟩) h
    · rfl
  · rfl

end

/-! ### A read after a write (R71) -/

/-- What a target keeps of a value written to it: the whole of it in OPA, OPB, OPC and HDR_FRAME, bits [7:0] elsewhere. -/
def keptValue (v : Word) : Target → Word
  | .reg .opa | .reg .opb | .reg .opc | .reg .hdrFrame => v
  | _ => BitVec.ofNat 32 (v.toNat % 256)

theorem zextByte_setWidth (v : Word) : zextByte (v.setWidth 8) = BitVec.ofNat 32 (v.toNat % 256) :=
  zextByte_eq_ofNat _

/-- A target that a write stored to reads as what it keeps of the value. -/
theorem readTarget_of_writeTarget {s t : State} {v : Word} {tg : Target} (h : writeTarget s v tg = some t) :
    readTarget t tg = some (keptValue v tg) := by
  have hbyte := congrArg some (zextByte_setWidth v)
  cases tg with
  | reg r =>
    cases r with
    | opa | opb | opc | hdrFrame => cases h; rfl
    | hdrSrsp | hdrNbs | hdrNbc | hdrFmt => cases h; exact hbyte
    | status | res0 | res1 | res2 | hdrPlen | rbCap | rbHead | rbTail | rbCount | idCapMax | idMagic => cases h
  | hdrName i => cases h; simpa [readTarget, keptValue] using hbyte
  | expName i => cases h; simpa [readTarget, keptValue] using hbyte
  | pkt a => cases h; simpa [readTarget, keptValue, Memory.read_write] using hbyte
  | cmd => cases h
  | ring a => cases h

/-- A writable target keeps bits [7:0] at the byte rows and at 0x20 to 0x2C, and the whole value at every other word row. -/
theorem keptValue_eq {s t : State} {v : Word} {tg : Target} {off n : Nat} (row : MapRow s.params tg off n)
    (h : writeTarget s v tg = some t) :
    keptValue v tg = if n = 1 ∨ 0x20 ≤ off ∧ off < 0x30 then BitVec.ofNat 32 (v.toNat % 256) else v := by
  cases row with
  | cmd => cases h
  | reg r =>
    cases r with
    | opa | opb | opc | hdrFrame | hdrSrsp | hdrNbs | hdrNbc | hdrFmt => rfl
    | status | res0 | res1 | res2 | hdrPlen | rbCap | rbHead | rbTail | rbCount | idCapMax | idMagic => cases h
  | hdrName i | expName i | pkt ha | ring ha => rfl

end Sys2Proof.Machine

namespace Sys2Proof.Proofs

/-- Settles O56. -/
theorem addressMapNamesItsRows : Obligations.AddressMapNamesItsRows := by
  intro p off n tg
  rw [busTarget_eq_some_iff]
  cases tg with
  | cmd => exact ⟨by rintro ⟨⟩; exact ⟨rfl, rfl⟩, by rintro ⟨rfl, rfl⟩; exact .cmd⟩
  | reg r =>
    simp only [mem_wordRows_iff]
    exact ⟨by rintro ⟨⟩; exact ⟨rfl, rfl⟩, by rintro ⟨rfl, rfl⟩; exact .reg r⟩
  | hdrName i => exact ⟨by rintro ⟨⟩; exact ⟨rfl, rfl⟩, by rintro ⟨rfl, rfl⟩; exact .hdrName i⟩
  | expName i => exact ⟨by rintro ⟨⟩; exact ⟨rfl, rfl⟩, by rintro ⟨rfl, rfl⟩; exact .expName i⟩
  | pkt a => exact ⟨by rintro ⟨⟩; exact ⟨rfl, ‹_›, rfl⟩, by rintro ⟨rfl, ha, rfl⟩; exact .pkt ha⟩
  | ring a => exact ⟨by rintro ⟨⟩; exact ⟨rfl, ‹_›, rfl⟩, by rintro ⟨rfl, ha, rfl⟩; exact .ring ha⟩

/-- Settles O49: the model reads exactly at the readable offsets, and answers there what the rules do. -/
theorem hostReadAnswersOrFaults : Obligations.HostReadAnswersOrFaults := by
  intro s who addr n rest hbus off
  split
  · obtain ⟨tg, v, hmap, hread⟩ := (readableAt_iff s off n).1 ‹_›
    exact ⟨tg, v, hmap, readAnswers_of_readTarget hread, step_of_read hbus hmap hread⟩
  · exact step_of_unreadable hbus ‹_›

/-- Settles O50: a write is CMD's and runs its word, or stores its value, or is a bus fault. -/
theorem hostWriteIsTakenOrFaults : Obligations.HostWriteIsTakenOrFaults := by
  intro s who addr n v rest hbus off
  have htgt (tg : Target) (hmap : busTarget s.params off n = some tg) : tg = .cmd ↔ n = 4 ∧ off = 0 := by
    rw [← busTarget_eq_cmd_iff s.params, hmap, Option.some_inj]
  split
  · by_cases hcmd : n = 4 ∧ off = 0
    · obtain ⟨rfl, hoff⟩ := hcmd
      obtain rfl := (busOffset_eq_zero_iff s.params addr).1 hoff
      obtain ⟨t, ht⟩ := exists_runCommand_next v (s.setBus rest)
      exact ⟨t, .cmd, (step_of_cmd hbus).trans ht, (busTarget_eq_cmd_iff _ _ _).2 ⟨rfl, hoff⟩, by simp [hoff], by simp⟩
    · have hstore : StorableAt off n := by unfold StorableAt; omega
      obtain ⟨tg, t, hmap, hwrite⟩ := (storableAt_iff (s.setBus rest) v off n).1 hstore
      refine ⟨t, tg, step_of_write hbus hmap hwrite, hmap, ?_, fun _ => writeLeaves_of_writeTarget hwrite⟩
      rw [htgt tg hmap]
      unfold StorableAt at hstore
      omega
  · refine step_of_unwritable hbus ?_ ?_
    · change ¬ (n = 4 ∧ off = 0)
      omega
    · change ¬ StorableAt off n
      unfold StorableAt
      omega

/-- Settles O51: the write stores, and the target then reads as what it keeps of the value. -/
theorem readAfterWriteReturnsTheValue : Obligations.ReadAfterWriteReturnsTheValue := by
  intro s w r addr n v rest hbus off hoff
  obtain ⟨tg, u, hmap, hwrite⟩ := (storableAt_iff (s.setBus (.access r (.read addr n) :: rest)) v off n).1 hoff
  have hparams : u.params = s.params := (writeTarget_params hwrite :)
  have hreplies : u.replies = s.replies := (writeTarget_replies hwrite :)
  have hread := step_of_read (writeTarget_bus hwrite) (by rw [hparams]; exact hmap) (readTarget_of_writeTarget hwrite)
  have hrun := (run_of_step (step_of_write hbus hmap hwrite) 1).trans ((run_one u).trans hread)
  refine ⟨_, hrun, rfl, ?_⟩
  rw [State.pushReply_replies, State.setBus_replies, hreplies, keptValue_eq (busTarget_eq_some_iff.1 hmap) hwrite]

/-- Settles O52: the values are those of the word rows. -/
theorem wordRegistersReadAtTheirOffsets : Obligations.WordRegistersReadAtTheirOffsets := by
  intro s who rest off v hmem hbus
  obtain ⟨⟨_, r⟩, hrow, heq⟩ := List.mem_map.1
    (show (off, v) ∈ wordRows.map fun x => (x.1, wordValue s x.2) from hmem)
  obtain ⟨rfl, rfl⟩ := Prod.mk.inj heq
  obtain rfl := mem_wordRows_iff.1 hrow
  have hsmall : regOffset r < 2 ^ 32 := by cases r <;> decide
  exact step_of_read_row hbus hsmall (.reg r) (congrArg some (readReg_eq_wordValue s r))

/-- Settles O54: the byte rows one by one. -/
theorem byteRowsReadAtTheirOffsets : Obligations.ByteRowsReadAtTheirOffsets := by
  intro s who rest off b hbus hrow
  rw [← zextByte_eq_ofNat]
  obtain ⟨i, rfl, rfl⟩ | ⟨i, rfl, rfl⟩ | ⟨a, ha, rfl, rfl⟩ | ⟨a, hlive, hmax, haddr, rfl, rfl⟩ := hrow
  · exact step_of_read_row hbus (by omega) (.hdrName i) rfl
  · exact step_of_read_row hbus (by omega) (.expName i) rfl
  · exact step_of_read_row hbus (by omega) (.pkt ha) rfl
  · exact step_of_read_row hbus haddr (.ring hmax) (readTarget_ring hlive)

end Sys2Proof.Proofs
end

section
/-! SUPPORT. The command word and the host's instructions: the decoder against the encoder, illegal words, pack against
unpack, and the pseudo-instructions (spec/30_encoding.md R91, R92, R98, R103, R104, R106, R107). -/

open Sys2Proof Sys2Proof.Machine Sys2Proof.Claims

namespace Sys2Proof

/-! ### Decoder and encoder (R102, R104) -/

/-- The opcode map read from OP is the opcode map read from command. -/
theorem decodeOp_eq_some_iff (op : Nat) (i : Instr) : decodeOp op = some i ↔ op = (opcode i).toNat := by
  constructor
  · intro h
    unfold decodeOp at h
    split at h <;> cases h <;> rfl
  · rintro rfl
    cases i <;> rfl

/-- The opcode map holds 0x10 to 0x1A and 0x20 to 0x29, and no other OP. -/
theorem exists_decodeOp_iff (op : Nat) :
    (∃ i, decodeOp op = some i) ↔ 0x10 ≤ op ∧ op ≤ 0x1A ∨ 0x20 ≤ op ∧ op ≤ 0x29 := by
  constructor
  · rintro ⟨i, h⟩
    rw [(decodeOp_eq_some_iff op i).1 h]
    cases i <;> decide
  · rintro (⟨hlo, hhi⟩ | ⟨hlo, hhi⟩)
    · interval_cases op <;> exact ⟨_, rfl⟩
    · interval_cases op <;> exact ⟨_, rfl⟩

/-- The decoder reads a command from its own word and from no other. -/
theorem decode_eq_ok_iff (w : Word) (i : Instr) : decode w = .ok i ↔ w = encode i := by
  rw [decode_ok_iff, decodeOp_eq_some_iff, ← BitVec.toNat_inj, encode_toNat]
  have := (opcode i).isLt
  omega

theorem decode_encode (i : Instr) : decode (encode i) = .ok i := (decode_eq_ok_iff _ i).2 rfl

/-- The legal words (R104): MBZ is zero and OP is in the table. -/
theorem exists_decode_iff (w : Word) :
    (∃ i, decode w = .ok i) ↔
      w.toNat / 256 = 0 ∧ (0x10 ≤ w.toNat % 256 ∧ w.toNat % 256 ≤ 0x1A ∨ 0x20 ≤ w.toNat % 256 ∧ w.toNat % 256 ≤ 0x29) := by
  simp only [decode_ok_iff, exists_and_left, exists_decodeOp_iff]
  omega

theorem map_decode_of_encoded {ws : List Word} {is : List Instr} (h : ws = is.map encode) :
    ws.map decode = is.map .ok := by
  rw [h, List.map_map]
  exact List.map_congr_left fun i _ => decode_encode i

end Sys2Proof

namespace Sys2Proof.Machine

/-- A word that is no command fails IllegalCommand (R103). -/
theorem runCommand_of_illegal {w : Word} (h : ¬ ∃ i, decode w = .ok i) (s : State) :
    runCommand w s = fail .illegalCommand s := by
  unfold runCommand
  split
  · exact absurd ⟨_, ‹_›⟩ h
  · rfl

/-! ### The fields of header bytes 4 and 7 (R91, R92, R98) -/

theorem srIdxField_lt (b : Byte) : (srIdxField b).toNat < 32 := by
  rw [srIdxField_toNat]
  omega

theorem spIdField_lt (b : Byte) : (spIdField b).toNat < 8 := by
  rw [spIdField_toNat]
  have := b.isLt
  omega

theorem dtIdField_lt (b : Byte) : (dtIdField b).toNat < 8 := by
  rw [dtIdField_toNat]
  omega

theorem rsvField_lt (b : Byte) : (rsvField b).toNat < 2 := by
  rw [rsvField_toNat]
  omega

theorem codecField_lt (b : Byte) : (codecField b).toNat < 16 := by
  rw [codecField_toNat]
  have := b.isLt
  omega

/-- The fields of header byte 4, packed again, give the byte. -/
theorem packSrspByte_fields (b : Byte) : packSrspByte (srIdxField b).toNat (spIdField b).toNat = b := by
  apply BitVec.eq_of_toNat_eq
  rw [packSrspByte_toNat (srIdxField_lt b) (spIdField_lt b), srIdxField_toNat, spIdField_toNat]
  omega

/-- The fields of header byte 7, packed again, give the byte. -/
theorem packFmtByte_fields (b : Byte) :
    packFmtByte (dtIdField b).toNat (rsvField b).toNat (codecField b).toNat = b := by
  apply BitVec.eq_of_toNat_eq
  rw [packFmtByte_toNat (dtIdField_lt b) (rsvField_lt b) (codecField_lt b), dtIdField_toNat, rsvField_toNat,
    codecField_toNat]
  omega

/-- Fields in range, packed in header byte 4, are read back. -/
theorem fields_packSrspByte {sr sp : Nat} (hsr : sr < 32) (hsp : sp < 8) :
    (srIdxField (packSrspByte sr sp)).toNat = sr ∧ (spIdField (packSrspByte sr sp)).toNat = sp := by
  rw [srIdxField_toNat, spIdField_toNat, packSrspByte_toNat hsr hsp]
  omega

/-- Fields in range, packed in header byte 7, are read back. -/
theorem fields_packFmtByte {dt rsv codec : Nat} (hdt : dt < 8) (hrsv : rsv < 2) (hcodec : codec < 16) :
    (dtIdField (packFmtByte dt rsv codec)).toNat = dt ∧ (rsvField (packFmtByte dt rsv codec)).toNat = rsv ∧
      (codecField (packFmtByte dt rsv codec)).toNat = codec := by
  rw [dtIdField_toNat, rsvField_toNat, codecField_toNat, packFmtByte_toNat hdt hrsv hcodec]
  omega

theorem zextByte_eq_iff (b : Byte) (w : Word) : zextByte b = w ↔ b.toNat = w.toNat := by
  rw [← BitVec.toNat_inj, zextByte_toNat]

/-! ### The pack and unpack commands (R132–R135) -/

/-- PACK_SRSP on fields in range (R132). -/
theorem exec_packSrsp_of_fits {s : State} (hsr : s.opa.val.toNat < 32) (hsp : s.opb.val.toNat < 8) :
    exec .packSrsp s =
      let b := packSrspByte s.opa.val.toNat s.opb.val.toNat
      finishOk ((s.setHdr { s.hdr with srsp := .of b }).setRes0 (zextByte b)) := by
  refine if_pos ?_
  rw [Bool.and_eq_true, fitsField_iff, fitsField_iff]
  exact ⟨hsr, hsp⟩

/-- PACK_FMT on fields in range (R133). -/
theorem exec_packFmt_of_fits {s : State} (hdt : s.opa.val.toNat < 8) (hrsv : s.opb.val.toNat < 2)
    (hcodec : s.opc.val.toNat < 16) :
    exec .packFmt s =
      let b := packFmtByte s.opa.val.toNat s.opb.val.toNat s.opc.val.toNat
      finishOk ((s.setHdr { s.hdr with fmt := .of b }).setRes0 (zextByte b)) := by
  refine if_pos ?_
  rw [Bool.and_eq_true, Bool.and_eq_true, fitsField_iff, fitsField_iff, fitsField_iff]
  exact ⟨⟨hdt, hrsv⟩, hcodec⟩

/-- PACK_SRSP on the fields of a byte stores the byte. -/
theorem exec_packSrsp_of_fields {s : State} {b : Byte} (hsr : s.opa.val = zextByte (srIdxField b))
    (hsp : s.opb.val = zextByte (spIdField b)) :
    exec .packSrsp s = finishOk ((s.setHdr { s.hdr with srsp := .of b }).setRes0 (zextByte b)) := by
  have hsr' : s.opa.val.toNat = (srIdxField b).toNat := by rw [hsr, zextByte_toNat]
  have hsp' : s.opb.val.toNat = (spIdField b).toNat := by rw [hsp, zextByte_toNat]
  rw [exec_packSrsp_of_fits (hsr' ▸ srIdxField_lt b) (hsp' ▸ spIdField_lt b), hsr', hsp', packSrspByte_fields]

/-- PACK_FMT on the fields of a byte stores the byte. -/
theorem exec_packFmt_of_fields {s : State} {b : Byte} (hdt : s.opa.val = zextByte (dtIdField b))
    (hrsv : s.opb.val = zextByte (rsvField b)) (hcodec : s.opc.val = zextByte (codecField b)) :
    exec .packFmt s = finishOk ((s.setHdr { s.hdr with fmt := .of b }).setRes0 (zextByte b)) := by
  have hdt' : s.opa.val.toNat = (dtIdField b).toNat := by rw [hdt, zextByte_toNat]
  have hrsv' : s.opb.val.toNat = (rsvField b).toNat := by rw [hrsv, zextByte_toNat]
  have hcodec' : s.opc.val.toNat = (codecField b).toNat := by rw [hcodec, zextByte_toNat]
  rw [exec_packFmt_of_fits (hdt' ▸ dtIdField_lt b) (hrsv' ▸ rsvField_lt b) (hcodec' ▸ codecField_lt b), hdt', hrsv',
    hcodec', packFmtByte_fields]

/-! ### Host scripts (R105, R106) -/

/-- A SET of a writable register, first in a script, writes it; the accesses after it stay. -/
theorem run_set_succ {s t : State} {r : WordReg} {v : Word} {es : List HostEvent} (n : Nat)
    (h : writeReg (s.setBus es) v r = some t) :
    Host.Core.run Sys2Proof.core (n + 1) (s.setBus (stmtEvents s.params (.set r v) ++ es)) =
      Host.Core.run Sys2Proof.core n t := by
  have hsmall : regOffset r < 2 ^ 32 := by cases r <;> decide
  have hmap : busTarget s.params (busOffset s.params (hostAddr s.params (regOffset r))) 4 = some (.reg r) := by
    rw [hostAddr, busOffset_add s.params hsmall, busTarget_four, wordTarget_regOffset]
  exact run_of_step (step_of_write (s := s.setBus (stmtEvents s.params (.set r v) ++ es)) rfl hmap h) n

/-- An EXEC, first in a script, runs its command; the accesses after it stay. -/
theorem run_exec (i : Instr) (s : State) (es : List HostEvent) :
    Host.Core.run Sys2Proof.core 1 (s.setBus (stmtEvents s.params (.exec i) ++ es)) = exec i (s.setBus es) := by
  have hbase : hostAddr s.params 0 = s.params.base := BitVec.add_zero _
  rw [run_one, stmtEvents, hbase]
  exact (step_of_cmd rfl).trans (runCommand_of_decode (decode_encode i) _)

section
variable (s : State) (i : Instr) (a b c : Word)

theorem run_script_setOpa :
    Host.Core.run Sys2Proof.core 2 (loadScript s [.set .opa a, .exec i]) = exec i (s.setOpa a) :=
  (run_set_succ (s := s) (r := .opa) 1 rfl).trans (run_exec i (s.setOpa a) s.bus)

theorem run_script_setOpa_setOpb :
    Host.Core.run Sys2Proof.core 3 (loadScript s [.set .opa a, .set .opb b, .exec i]) =
      exec i ((s.setOpa a).setOpb b) :=
  (run_set_succ (s := s) (r := .opa) 2 rfl).trans <|
    (run_set_succ (s := s.setOpa a) (r := .opb) 1 rfl).trans (run_exec i ((s.setOpa a).setOpb b) s.bus)

theorem run_script_setOpa_setOpb_setOpc :
    Host.Core.run Sys2Proof.core 4 (loadScript s [.set .opa a, .set .opb b, .set .opc c, .exec i]) =
      exec i (((s.setOpa a).setOpb b).setOpc c) :=
  (run_set_succ (s := s) (r := .opa) 3 rfl).trans <|
    (run_set_succ (s := s.setOpa a) (r := .opb) 2 rfl).trans <|
      (run_set_succ (s := (s.setOpa a).setOpb b) (r := .opc) 1 rfl).trans
        (run_exec i (((s.setOpa a).setOpb b).setOpc c) s.bus)

end

/-- A pseudo-instruction's accesses run its command with its operands set (R106). -/
theorem run_expandPseudo (p : Pseudo) (s : State) :
    Host.Core.run Sys2Proof.core (scriptEvents s.params (expandPseudo p)).length (loadScript s (expandPseudo p)) =
      exec (pseudoInstr p) (pseudoOperands s p) := by
  cases p with
  | decode a | encode a | srhz a | hzsr a | dtsize a | classify a | rbinit a | rbconsume a =>
    exact run_script_setOpa s _ a
  | packsr a b | rbwrite a b => exact run_script_setOpa_setOpb s _ a b
  | packfmt a b c => exact run_script_setOpa_setOpb_setOpc s _ a b c

end Sys2Proof.Machine

namespace Sys2Proof.Proofs

/-- Settles O3. -/
theorem decodingIsTotalAndExact : Obligations.DecodingIsTotalAndExact :=
  fun w => ⟨exists_decode_iff w, decode_eq_ok_iff w⟩

/-- Settles O4: the word is no command, and CMD's write of it fails. -/
theorem illegalWordSetsOnlyStatus : Obligations.IllegalWordSetsOnlyStatus := by
  intro s who w rest hbus hillegal
  rw [step_of_cmd hbus, runCommand_of_illegal (mt (exists_decode_iff w).1 hillegal)]
  rfl

/-- Settles O23: the fields and the byte determine each other, for each of the two bytes and in both directions. -/
theorem packAndUnpackAreInverses : Obligations.PackAndUnpackAreInverses := by
  refine ⟨fun s hsr hsp => ?_, fun s hdt hrsv hcodec => ?_, fun s => ?_, fun s => ?_⟩
  · obtain ⟨hsr', hsp'⟩ := fields_packSrspByte hsr hsp
    refine ⟨_, exec_packSrsp_of_fits hsr hsp, rfl, packSrspByte_toNat hsr hsp, zextByte_toNat _, fun v hv => ?_⟩
    refine ⟨_, rfl, rfl, (zextByte_eq_iff _ _).2 ?_, (zextByte_eq_iff _ _).2 ?_⟩
    · exact hv ▸ hsr'
    · exact hv ▸ hsp'
  · obtain ⟨hdt', hrsv', hcodec'⟩ := fields_packFmtByte hdt hrsv hcodec
    refine ⟨_, exec_packFmt_of_fits hdt hrsv hcodec, rfl, packFmtByte_toNat hdt hrsv hcodec, zextByte_toNat _,
      fun v hv => ?_⟩
    refine ⟨_, rfl, rfl, (zextByte_eq_iff _ _).2 ?_, (zextByte_eq_iff _ _).2 ?_, (zextByte_eq_iff _ _).2 ?_⟩
    · exact hv ▸ hdt'
    · exact hv ▸ hrsv'
    · exact hv ▸ hcodec'
  · refine ⟨_, rfl, rfl, fun v hsr hsp => ?_⟩
    exact ⟨_, exec_packSrsp_of_fields hsr hsp, rfl, rfl, congrArg Reg.of (zextByte_eq_ofNat _)⟩
  · refine ⟨_, rfl, rfl, fun v hdt hrsv hcodec => ?_⟩
    exact ⟨_, exec_packFmt_of_fields hdt hrsv hcodec, rfl, rfl, congrArg Reg.of (zextByte_eq_ofNat _)⟩

/-- Settles O53: no command writes the operand registers (R23), so they keep what the SETs put there. -/
theorem pseudoInstructionsRunTheirCommand : Obligations.PseudoInstructionsRunTheirCommand := by
  intro p s
  refine ⟨run_expandPseudo p s, fun t h => ?_⟩
  obtain ⟨⟨hopa, hopb, hopc, -⟩, -⟩ := commandsTouchOnlyTheirOwnState _ _ _ h
  exact ⟨hopa, hopb, hopc⟩

/-- Settles O2: the 21 words are the encoder's. -/
theorem commandWordsReadAsTheirCommands : Obligations.CommandWordsReadAsTheirCommands :=
  map_decode_of_encoded rfl

end Sys2Proof.Proofs
end

section
/-! SUPPORT. The bit-packed header bytes, the tables and the expected length: PACK_SRSP, PACK_FMT, UNPACK_SRSP,
UNPACK_FMT, SR_TO_HZ, HZ_TO_SR, DT_SIZE and EXPECT_LEN (spec/41_codec.md R132–R135, R138, R139, R142–R145, R147). -/

open Sys2Proof Sys2Proof.Machine Sys2Proof.Claims

namespace Sys2Proof.Machine

/-! ### The packed bytes as arithmetic (R91, R92) -/

theorem packSrspByte_eq_ofNat {sr sp : Nat} (hsr : sr < 32) (hsp : sp < 8) :
    packSrspByte sr sp = BitVec.ofNat 8 (sp * 32 + sr) := by
  rw [← packSrspByte_toNat hsr hsp, BitVec.ofNat_toNat, BitVec.setWidth_eq]

theorem packFmtByte_eq_ofNat {dt rsv codec : Nat} (hdt : dt < 8) (hrsv : rsv < 2) (hcodec : codec < 16) :
    packFmtByte dt rsv codec = BitVec.ofNat 8 (codec * 16 + rsv * 8 + dt) := by
  rw [← packFmtByte_toNat hdt hrsv hcodec, BitVec.ofNat_toNat, BitVec.setWidth_eq]

theorem zextByte_packSrspByte {sr sp : Nat} (hsr : sr < 32) (hsp : sp < 8) :
    zextByte (packSrspByte sr sp) = BitVec.ofNat 32 (sp * 32 + sr) := by
  rw [zextByte_eq_ofNat, packSrspByte_toNat hsr hsp]

theorem zextByte_packFmtByte {dt rsv codec : Nat} (hdt : dt < 8) (hrsv : rsv < 2) (hcodec : codec < 16) :
    zextByte (packFmtByte dt rsv codec) = BitVec.ofNat 32 (codec * 16 + rsv * 8 + dt) := by
  rw [zextByte_eq_ofNat, packFmtByte_toNat hdt hrsv hcodec]

/-- PACK_SRSP on a field out of range (R132). -/
theorem exec_packSrsp_of_misfit {s : State} (h : 32 ≤ s.opa.val.toNat ∨ 8 ≤ s.opb.val.toNat) :
    exec .packSrsp s = fail .invalidArgument s := by
  refine if_neg ?_
  rw [Bool.and_eq_true, fitsField_iff, fitsField_iff]
  simp only [operandA, operandB]
  omega

/-- PACK_FMT on a field out of range (R133). -/
theorem exec_packFmt_of_misfit {s : State}
    (h : 8 ≤ s.opa.val.toNat ∨ 2 ≤ s.opb.val.toNat ∨ 16 ≤ s.opc.val.toNat) :
    exec .packFmt s = fail .invalidArgument s := by
  refine if_neg ?_
  rw [Bool.and_eq_true, Bool.and_eq_true, fitsField_iff, fitsField_iff, fitsField_iff]
  simp only [operandA, operandB, operandC]
  omega

/-! ### The sample-rate table (R142–R144) -/

theorem srToHz_eq_rates (i : Nat) : srToHz i = if i ≤ 20 then rates.getD i 0 else 0 := by
  split
  · rfl
  · exact srToHz_above (by omega)

/-- The reverse lookup answers the index of a defined rate: no rate stands in the table twice. -/
theorem hzToSr_of_rate {i hz : Nat} (h : rates[i]? = some hz) : hzToSr hz = some i := by
  have distinct : rates.Nodup := by decide
  obtain ⟨hi, rfl⟩ := List.getElem?_eq_some_iff.1 h
  have hidx : srTable.idxOf? rates[i] = some i :=
    List.idxOf?_eq_some_iff.2 ⟨hi, rfl, fun j hj heq => hj.ne (distinct.getElem_inj_iff.1 heq)⟩
  rw [hzToSr, scanRates_eq, hidx, Option.map_some, Nat.zero_add]

/-- The reverse lookup answers nothing for a number that is no defined rate. -/
theorem hzToSr_of_not_rate {hz : Nat} (h : hz ∉ rates) : hzToSr hz = none := by
  have hidx : srTable.idxOf? hz = none := List.idxOf?_eq_none_iff.2 h
  rw [hzToSr, scanRates_eq, hidx, Option.map_none]

theorem exec_hzToSr_of_some {s : State} {i : Nat} (h : hzToSr s.opa.val.toNat = some i) :
    exec .hzToSr s = finishOk (s.setRes0 (BitVec.ofNat 32 i)) := by
  change execHzToSr s = _
  simp only [execHzToSr, operandA, h]

theorem exec_hzToSr_of_none {s : State} (h : hzToSr s.opa.val.toNat = none) :
    exec .hzToSr s = finishOk (s.setRes0 s.params.srNotFound) := by
  change execHzToSr s = _
  simp only [execHzToSr, operandA, h]

/-! ### The data-type sizes and the expected length (R138, R139, R145) -/

theorem sizeOfType_of_ge {dt : Nat} (h : 6 ≤ dt) : sizeOfType dt = 0 := by
  simp (disch := omega) only [sizeOfType, if_neg]

theorem byteSize_of_ge {dt : Nat} (h : 6 ≤ dt) : byteSize dt = 0 := by
  by_cases hid : dt < 8
  · interval_cases dt <;> rfl
  · exact List.getD_eq_default byteSizes 0 (Nat.not_lt.1 hid)

theorem byteSize_eq_sizeOfType (dt : Nat) : byteSize dt = sizeOfType dt := by
  by_cases h : dt < 6
  · interval_cases dt <;> rfl
  · rw [byteSize_of_ge (Nat.not_lt.1 h), sizeOfType_of_ge (Nat.not_lt.1 h)]

theorem sizeOfType_le (dt : Nat) : sizeOfType dt ≤ 8 := by
  unfold sizeOfType
  split_ifs <;> omega

theorem sizeOfType_eq_zero_iff (dt : Nat) : sizeOfType dt = 0 ↔ 6 ≤ dt := by
  refine ⟨fun h => Nat.not_lt.1 fun hlt => ?_, sizeOfType_of_ge⟩
  interval_cases dt <;> cases h

theorem expLen_eq_expectedLen (nbs nbc fmt : Byte) : expLen nbs nbc fmt = expectedLen nbs nbc fmt := by
  rw [expLen, expectedLen, byteSize_eq_sizeOfType, dtIdField_toNat]

/-- The product's bound: its factors are at most 256, 256 and 8 (R139). -/
theorem expectedLen_le (nbs nbc fmt : Byte) : expectedLen nbs nbc fmt ≤ 524288 :=
  calc (nbs.toNat + 1) * (nbc.toNat + 1) * sizeOfType (fmt.toNat % 8)
      ≤ 256 * 256 * 8 := Nat.mul_le_mul (Nat.mul_le_mul nbs.isLt nbc.isLt) (sizeOfType_le _)

theorem expectedLen_eq_zero_iff (nbs nbc fmt : Byte) :
    expectedLen nbs nbc fmt = 0 ↔ fmt.toNat % 8 = 6 ∨ fmt.toNat % 8 = 7 := by
  simp only [expectedLen, Nat.mul_eq_zero, Nat.succ_ne_zero, false_or, sizeOfType_eq_zero_iff]
  omega

theorem expectedLen_register_toNat (nbs nbc fmt : Byte) :
    (BitVec.ofNat 32 (expectedLen nbs nbc fmt)).toNat = expectedLen nbs nbc fmt := by
  have := expectedLen_le nbs nbc fmt
  rw [BitVec.toNat_ofNat]
  omega

theorem mismatchFlag_eq (plen e : Nat) : mismatchFlag plen e = if plen = e then 0 else 1 := by
  by_cases h : plen = e <;> simp [mismatchFlag, flagWord_eq, h]

end Sys2Proof.Machine

namespace Sys2Proof.Proofs

/-- Settles O19. -/
theorem packSrspFollowsItsRule : Obligations.PackSrspFollowsItsRule := by
  refine ⟨decode_encode .packSrsp, fun s => ?_⟩
  dsimp only
  split
  next hmisfit => rw [exec_packSrsp_of_misfit hmisfit]; rfl
  next hfits =>
    obtain ⟨hsr, hsp⟩ : s.opa.val.toNat < 32 ∧ s.opb.val.toNat < 8 := by omega
    rw [exec_packSrsp_of_fits hsr hsp, ← packSrspByte_eq_ofNat hsr hsp, ← zextByte_packSrspByte hsr hsp]
    rfl

/-- Settles O20. -/
theorem packFmtFollowsItsRule : Obligations.PackFmtFollowsItsRule := by
  refine ⟨decode_encode .packFmt, fun s => ?_⟩
  dsimp only
  split
  next hmisfit => rw [exec_packFmt_of_misfit hmisfit]; rfl
  next hfits =>
    obtain ⟨hdt, hrsv, hcodec⟩ : s.opa.val.toNat < 8 ∧ s.opb.val.toNat < 2 ∧ s.opc.val.toNat < 16 := by omega
    rw [exec_packFmt_of_fits hdt hrsv hcodec, ← packFmtByte_eq_ofNat hdt hrsv hcodec,
      ← zextByte_packFmtByte hdt hrsv hcodec]
    rfl

/-- Settles O21: the two fields of the byte are its remainder and its quotient by 32. -/
theorem unpackSrspFollowsItsRule : Obligations.UnpackSrspFollowsItsRule := by
  refine ⟨decode_encode .unpackSrsp, fun s => ?_⟩
  rw [← srIdxField_toNat, ← spIdField_toNat, ← zextByte_eq_ofNat, ← zextByte_eq_ofNat]
  rfl

/-- Settles O22: the three fields of the byte are its bits read as arithmetic. -/
theorem unpackFmtFollowsItsRule : Obligations.UnpackFmtFollowsItsRule := by
  refine ⟨decode_encode .unpackFmt, fun s => ?_⟩
  rw [← dtIdField_toNat, ← rsvField_toNat, ← codecField_toNat, ← zextByte_eq_ofNat, ← zextByte_eq_ofNat,
    ← zextByte_eq_ofNat]
  rfl

/-- Settles O24. -/
theorem srToHzFollowsItsRule : Obligations.SrToHzFollowsItsRule := by
  refine ⟨decode_encode .srToHz, fun s => ?_⟩
  dsimp only
  rw [← srToHz_eq_rates]
  rfl

/-- Settles O25: the table's rates are distinct, so the scan stops at the one index of the rate. -/
theorem hzToSrFollowsItsRule : Obligations.HzToSrFollowsItsRule :=
  ⟨decode_encode .hzToSr, fun _ _ hrate => exec_hzToSr_of_some (hzToSr_of_rate hrate),
    fun _ habsent => exec_hzToSr_of_none (hzToSr_of_not_rate habsent)⟩

/-- Settles O26. -/
theorem dtSizeFollowsItsRule : Obligations.DtSizeFollowsItsRule := by
  refine ⟨decode_encode .dtSize, fun s => ?_⟩
  rw [← byteSize_eq_sizeOfType]
  rfl

/-- Settles O27. -/
theorem expectLenFollowsItsRule : Obligations.ExpectLenFollowsItsRule := by
  refine ⟨decode_encode .expectLen, fun s => ?_⟩
  dsimp only
  rw [← expLen_eq_expectedLen, ← mismatchFlag_eq]
  rfl

/-- Settles O28: the product fits the register, so RES0 holds it exactly. -/
theorem expectedLengthIsExactAndBounded : Obligations.ExpectedLengthIsExactAndBounded := by
  intro s
  refine ⟨_, expectLenFollowsItsRule.2 s, ?_⟩
  rw [Reg.of_val, expectedLen_register_toNat]
  exact ⟨rfl, expectedLen_le _ _ _, expectedLen_eq_zero_iff _ _ _⟩

end Sys2Proof.Proofs
end

section
/-! SUPPORT. The header image in PKT and the commands that read and write it: HDR_DECODE, HDR_ENCODE and RX_CLASSIFY,
the round trip, and the agreement of the two receive paths (spec/41_codec.md R131, R137, R140, R141, R146, R148–R151). -/

open Sys2Proof Sys2Proof.Machine Sys2Proof.Claims

namespace Sys2Proof.Machine

/-! ### Words on the wire (R12, R64) -/

theorem pktMagic_toNat (m : Memory) : (pktMagic m).toNat = wireMagic m := le32_toNat _ _ _ _

theorem pktMagic_eq_iff (m : Memory) (w : Word) : pktMagic m = w ↔ wireMagic m = w.toNat := by
  rw [← pktMagic_toNat, BitVec.toNat_inj]

/-! ### Runs of bytes -/

theorem toList_map_eq_ofFn {α β : Type} {n : Nat} (v : Vector α n) (f : α → β) :
    v.toList.map f = List.ofFn fun i : Fin n => f v[i] :=
  List.ext_getElem (by simp) (by simp)

theorem Memory.readRun_eq_ofFn (m : Memory) (a n : Nat) :
    m.readRun a n = List.ofFn fun i : Fin n => m.read (a + i.val) :=
  List.ext_getElem (by simp) (by simp)

theorem Memory.readRun_append (m : Memory) (a n k : Nat) :
    m.readRun a n ++ m.readRun (a + n) k = m.readRun a (n + k) := by
  simp only [Memory.readRun, List.range_add, List.map_append, List.map_map, Nat.add_assoc, Function.comp_def]

/-- A run written back over itself leaves every byte as it was. -/
theorem Memory.read_writeRun_readRun (m : Memory) (a n x : Nat) : (m.writeRun a (m.readRun a n)).read x = m.read x := by
  rw [Memory.read_writeRun]
  split
  next hin => rw [Memory.readRun_getElem, Nat.add_sub_cancel' hin.1]
  next => rfl

/-! ### Writing a header image (R137, R141) -/

section
variable (m : Memory) (p : Config.Params) (h : Header)

/-- PKT with the header image at its start. -/
def Memory.encodeHeader : Memory := m.writeRun 0 (hdrBytes p h)

theorem Memory.read_encodeHeader {i : Nat} {b : Byte} (hb : (hdrBytes p h)[i]? = some b) :
    (m.encodeHeader p h).read i = b := by
  obtain ⟨hi, rfl⟩ := List.getElem?_eq_some_iff.1 hb
  have hin := m.read_writeRun_inside 0 (hdrBytes p h) i hi
  rwa [Nat.zero_add] at hin

theorem Memory.read_encodeHeader_magic {i : Nat} (hi : i < 4) :
    (m.encodeHeader p h).read i = (le32bytes p.magic)[i]'hi := by
  refine m.read_encodeHeader p h ?_
  rw [hdrBytes_getElem?, if_pos hi]
  exact List.getElem?_eq_getElem hi

theorem Memory.read_encodeHeader_srsp : (m.encodeHeader p h).read 4 = h.srsp.val := m.read_encodeHeader p h rfl
theorem Memory.read_encodeHeader_nbs : (m.encodeHeader p h).read 5 = h.nbs.val := m.read_encodeHeader p h rfl
theorem Memory.read_encodeHeader_nbc : (m.encodeHeader p h).read 6 = h.nbc.val := m.read_encodeHeader p h rfl
theorem Memory.read_encodeHeader_fmt : (m.encodeHeader p h).read 7 = h.fmt.val := m.read_encodeHeader p h rfl

theorem Memory.read_encodeHeader_name (i : Fin 16) : (m.encodeHeader p h).read (8 + i.val) = h.name[i].val := by
  refine m.read_encodeHeader p h ?_
  rw [hdrBytes_getElem?, if_neg (by omega), if_neg (by omega), if_pos (by omega)]
  simp

theorem Memory.read_encodeHeader_frame {i : Nat} (hi : i < 4) :
    (m.encodeHeader p h).read (24 + i) = (le32bytes h.frame.val)[i]'hi := by
  refine m.read_encodeHeader p h ?_
  rw [hdrBytes_getElem?, if_neg (by omega), if_neg (by omega), if_neg (by omega), Nat.add_sub_cancel_left]
  exact List.getElem?_eq_getElem hi

theorem Memory.read_encodeHeader_payload {a : Nat} (ha : 28 ≤ a) : (m.encodeHeader p h).read a = m.read a :=
  m.read_writeRun_outside 0 (hdrBytes p h) a (.inr (by simpa using ha))

/-! ### Decoding an encoded header, encoding a decoded one (R146) -/

theorem pktMagic_encodeHeader : pktMagic (m.encodeHeader p h) = p.magic := by
  rw [pktMagic, m.read_encodeHeader_magic p h (i := 0) (by omega), m.read_encodeHeader_magic p h (i := 1) (by omega),
    m.read_encodeHeader_magic p h (i := 2) (by omega), m.read_encodeHeader_magic p h (i := 3) (by omega)]
  exact le32_le32bytes p.magic

theorem pktFrame_encodeHeader : pktFrame (m.encodeHeader p h) = h.frame.val := by
  rw [pktFrame, m.read_encodeHeader_frame p h (i := 0) (by omega), m.read_encodeHeader_frame p h (i := 1) (by omega),
    m.read_encodeHeader_frame p h (i := 2) (by omega), m.read_encodeHeader_frame p h (i := 3) (by omega)]
  exact le32_le32bytes h.frame.val

end

/-- The image of a decoded header is the 28 bytes it was decoded from, where the packet's magic is MAGIC. -/
theorem hdrBytes_wireHeader {m : Memory} {p : Config.Params} (hmagic : pktMagic m = p.magic) (len : Nat) :
    hdrBytes p (wireHeader m len) = m.readRun 0 28 := by
  have hmagicBytes : le32bytes p.magic = m.readRun 0 4 := hmagic ▸ le32bytes_le32 _ _ _ _
  have hname : (wireHeader m len).name.toList.map Reg.val = m.readRun 8 16 := by
    rw [toList_map_eq_ofFn, Memory.readRun_eq_ofFn]
    simp only [wireHeader, Fin.getElem_fin, Vector.getElem_ofFn, Reg.of_val]
  have hframe : le32bytes (wireHeader m len).frame.val = m.readRun 24 4 := le32bytes_le32 _ _ _ _
  rw [hdrBytes, hmagicBytes, hname, hframe]
  change m.readRun 0 4 ++ m.readRun 4 4 ++ m.readRun 8 16 ++ m.readRun 24 4 = m.readRun 0 28
  rw [m.readRun_append 0 4 4, m.readRun_append 0 8 16, m.readRun_append 0 24 4]

/-- Encoding what was decoded leaves every byte of PKT as it was. -/
theorem Memory.read_encodeHeader_wireHeader {m : Memory} {p : Config.Params} (hmagic : pktMagic m = p.magic)
    (len a : Nat) : (m.encodeHeader p (wireHeader m len)).read a = m.read a := by
  rw [Memory.encodeHeader, hdrBytes_wireHeader hmagic, Memory.read_writeRun_readRun]

/-! ### RX_CLASSIFY's filters (R149) -/

theorem nameMismatch_iff (cfg : Vector Byte 16) (h : Header) :
    nameMismatch cfg h = true ↔ cfg[0] ≠ 0 ∧ ∃ i : Fin 16, h.name[i].val ≠ cfg[i] := by
  have hexp : cfg.toList = List.ofFn fun i : Fin 16 => cfg[i] := by
    simpa using toList_map_eq_ofFn cfg id
  rw [nameMismatch, Bool.and_eq_true, bne_iff_ne, bne_iff_ne, toList_map_eq_ofFn, hexp, List.ofFn_injective.ne_iff,
    Function.ne_iff]

/-- The verdict's number on a decoded packet, by the bytes the filters look at. -/
theorem verdictNum_filterVerdict (cfg : Vector Byte 16) (m : Memory) (len : Nat) :
    verdictNum (filterVerdict cfg (wireHeader m len)) =
      if cfg[0] ≠ 0 ∧ ∃ i : Fin 16, m.read (8 + i.val) ≠ cfg[i] then 3
      else if (m.read 4).toNat / 32 ≠ 0 then 4
      else if (m.read 7).toNat / 16 ≠ 0 then 5
      else 0 := by
  have hname : nameMismatch cfg (wireHeader m len) = true ↔
      cfg[0] ≠ 0 ∧ ∃ i : Fin 16, m.read (8 + i.val) ≠ cfg[i] := by
    rw [nameMismatch_iff]
    simp [wireHeader]
  have hsub : spIdField (m.read 4) ≠ 0 ↔ (m.read 4).toNat / 32 ≠ 0 := by
    rw [← spIdField_toNat, Ne, ← BitVec.toNat_inj]; rfl
  have hcodec : codecField (m.read 7) ≠ 0 ↔ (m.read 7).toNat / 16 ≠ 0 := by
    rw [← codecField_toNat, Ne, ← BitVec.toNat_inj]; rfl
  rw [filterVerdict, apply_ite verdictNum, apply_ite verdictNum, apply_ite verdictNum]
  exact if_congr hname rfl (if_congr hsub rfl (if_congr hcodec rfl rfl))

/-- The filters answer neither of the early verdicts. -/
theorem verdictNum_filterVerdict_ne (cfg : Vector Byte 16) (h : Header) :
    verdictNum (filterVerdict cfg h) ≠ 1 ∧ verdictNum (filterVerdict cfg h) ≠ 2 := by
  unfold filterVerdict
  split_ifs <;> decide

/-- A payload length fits its register. -/
theorem payloadLen_toNat (len : Word) : (BitVec.ofNat 32 (len.toNat - 28)).toNat = len.toNat - 28 := by
  have := len.isLt
  rw [BitVec.toNat_ofNat]
  omega

/-! ### HDR_DECODE, HDR_ENCODE and RX_CLASSIFY (R140, R141, R149) -/

/-- HDR_DECODE's checks in order and its effect (R140). -/
theorem exec_hdrDecode_eq (s : State) :
    exec .hdrDecode s =
      if 1464 < s.opa.val.toNat then .next { s with status := .of 1 }
      else if s.opa.val.toNat < 28 then .next { s with status := .of 5 }
      else if wireMagic s.pkt ≠ s.params.magic.toNat then .next { s with status := .of 6 }
      else .next { s with
        status := .of 0, hdr := wireHeader s.pkt s.opa.val.toNat, res0 := .of 28,
        res1 := .of (BitVec.ofNat 32 (s.opa.val.toNat - 28)) } :=
  if_congr .rfl rfl <| if_congr .rfl rfl <| if_congr (not_congr (pktMagic_eq_iff _ _)) rfl rfl

/-- HDR_DECODE on a packet of legal length and magic. -/
theorem exec_hdrDecode_of_valid {s : State} {len : Nat} (hlen : s.opa.val.toNat = len) (hlo : 28 ≤ len)
    (hhi : len ≤ 1464) (hmagic : pktMagic s.pkt = s.params.magic) :
    exec .hdrDecode s = .next { s with
      status := .of 0, hdr := wireHeader s.pkt len, res0 := .of 28, res1 := .of (BitVec.ofNat 32 (len - 28)) } := by
  subst hlen
  rw [exec_hdrDecode_eq, if_neg (Nat.not_lt.2 hhi), if_neg (Nat.not_lt.2 hlo),
    if_neg (not_not.2 ((pktMagic_eq_iff _ _).1 hmagic))]

/-- A decode that ends with status OK had a packet of legal length and magic. -/
theorem exec_hdrDecode_ok {s t : State} (h : exec .hdrDecode s = .next t) (hok : t.status.val = 0) :
    s.opa.val.toNat ≤ 1464 ∧ pktMagic s.pkt = s.params.magic ∧ t = { s with
      status := .of 0, hdr := wireHeader s.pkt s.opa.val.toNat, res0 := .of 28,
      res1 := .of (BitVec.ofNat 32 (s.opa.val.toNat - 28)) } := by
  rw [exec_hdrDecode_eq] at h
  split_ifs at h with hlong hshort hmagic
  · cases h; cases hok
  · cases h; cases hok
  · cases h; cases hok
  · cases h
    exact ⟨Nat.not_lt.1 hlong, (pktMagic_eq_iff _ _).2 (not_not.1 hmagic), rfl⟩

/-- HDR_ENCODE on a legal payload length (R141). -/
theorem exec_hdrEncode_of_fits {s : State} (hlen : s.opa.val.toNat ≤ 1436) :
    exec .hdrEncode s = .next { s with
      status := .of 0, pkt := s.pkt.encodeHeader s.params s.hdr,
      hdr := { s.hdr with plen := .of (BitVec.ofNat 32 s.opa.val.toNat) },
      res0 := .of (BitVec.ofNat 32 (28 + s.opa.val.toNat)) } :=
  if_neg (Nat.not_lt.2 hlen)

/-- RX_CLASSIFY's checks in order and its effect (R149). -/
theorem exec_rxClassify_eq (s : State) :
    exec .rxClassify s =
      if 1464 < s.opa.val.toNat ∨ s.expName[15] ≠ 0 then .next { s with status := .of 1 }
      else if s.opa.val.toNat < 28 then .next { s with status := .of 0, res0 := .of 1, res1 := .of 0, res2 := .of 0 }
      else if wireMagic s.pkt ≠ s.params.magic.toNat then
        .next { s with status := .of 0, res0 := .of 2, res1 := .of 0, res2 := .of 0 }
      else .next { s with
        status := .of 0, hdr := wireHeader s.pkt s.opa.val.toNat,
        res0 := .of (verdictNum (filterVerdict s.expName (wireHeader s.pkt s.opa.val.toNat))),
        res1 := .of (BitVec.ofNat 32 (expectedLen (s.pkt.read 5) (s.pkt.read 6) (s.pkt.read 7))),
        res2 := .of (
          if s.opa.val.toNat - 28 = expectedLen (s.pkt.read 5) (s.pkt.read 6) (s.pkt.read 7) then 0 else 1) } := by
  rw [ite_or, ← expLen_eq_expectedLen, ← mismatchFlag_eq, ← payloadLen_toNat]
  exact if_congr .rfl rfl <| if_congr .rfl rfl <| if_congr .rfl rfl <|
    if_congr (not_congr (pktMagic_eq_iff _ _)) rfl rfl

end Sys2Proof.Machine

namespace Sys2Proof.Proofs

/-- Settles O29. -/
theorem hdrDecodeFollowsItsRule : Obligations.HdrDecodeFollowsItsRule :=
  ⟨decode_encode .hdrDecode, exec_hdrDecode_eq⟩

/-- Settles O30: the 28 bytes stored are the header image, read off field by field. -/
theorem hdrEncodeFollowsItsRule : Obligations.HdrEncodeFollowsItsRule := by
  refine ⟨decode_encode .hdrEncode, fun s => ?_⟩
  dsimp only
  split
  next hlong => exact if_pos hlong
  next hlen =>
    refine ⟨_, exec_hdrEncode_of_fits (Nat.not_lt.1 hlen), rfl, fun i hi => ?_, s.pkt.read_encodeHeader_srsp _ _,
      s.pkt.read_encodeHeader_nbs _ _, s.pkt.read_encodeHeader_nbc _ _, s.pkt.read_encodeHeader_fmt _ _,
      s.pkt.read_encodeHeader_name _ _, fun i hi => ?_, fun a => s.pkt.read_encodeHeader_payload _ _⟩
    · exact (congrArg BitVec.toNat (s.pkt.read_encodeHeader_magic _ _ hi)).trans (le32bytes_getElem _ _ hi)
    · exact (congrArg BitVec.toNat (s.pkt.read_encodeHeader_frame _ _ hi)).trans (le32bytes_getElem _ _ hi)

/-- Settles O31: decoding reads back the fields of the image that encoding wrote, and the image of a decoded header is the
packet's own 28 bytes. -/
theorem encodeAndDecodeRoundTrip : Obligations.EncodeAndDecodeRoundTrip := by
  refine ⟨fun s hlen => ?_, fun s t hdec hok => ?_⟩
  · have hpacket : (BitVec.ofNat 32 (28 + s.opa.val.toNat)).toNat = 28 + s.opa.val.toNat := by
      rw [BitVec.toNat_ofNat]
      omega
    have hplen : BitVec.ofNat 32 (28 + s.opa.val.toNat - 28) = s.opa.val := by simp
    refine ⟨_, _, exec_hdrEncode_of_fits hlen,
      exec_hdrDecode_of_valid hpacket (by omega) (by omega) (pktMagic_encodeHeader s.pkt s.params s.hdr), rfl,
      ?srsp, ?nbs, ?nbc, ?fmt, fun i => ?name, ?frame, hplen, fun a => ?payload⟩
    case srsp => exact s.pkt.read_encodeHeader_srsp _ _
    case nbs => exact s.pkt.read_encodeHeader_nbs _ _
    case nbc => exact s.pkt.read_encodeHeader_nbc _ _
    case fmt => exact s.pkt.read_encodeHeader_fmt _ _
    case name => simpa [wireHeader] using s.pkt.read_encodeHeader_name _ _ i
    case frame => exact pktFrame_encodeHeader s.pkt s.params s.hdr
    case payload => exact s.pkt.read_encodeHeader_payload _ _
  · obtain ⟨hlong, hmagic, rfl⟩ := exec_hdrDecode_ok hdec hok
    have hplen : (BitVec.ofNat 32 (s.opa.val.toNat - 28)).toNat ≤ 1436 := by
      rw [payloadLen_toNat]
      omega
    exact ⟨_, exec_hdrEncode_of_fits hplen, rfl, Memory.read_encodeHeader_wireHeader hmagic _⟩

/-- Settles O32: the verdict's number, by the bytes the filters look at. -/
theorem rxClassifyFollowsItsRule : Obligations.RxClassifyFollowsItsRule := by
  refine ⟨decode_encode .rxClassify, fun s => ?_⟩
  dsimp only
  rw [← verdictNum_filterVerdict s.expName s.pkt s.opa.val.toNat]
  exact exec_rxClassify_eq s

/-- Settles O33: both commands make the same checks in the same order, and the filters answer neither early verdict. -/
theorem classifyAgreesWithDecode : Obligations.ClassifyAgreesWithDecode := by
  intro s hlen hexp
  have hlong : ¬ 1464 < s.opa.val.toNat := Nat.not_lt.2 hlen
  rw [exec_rxClassify_eq, exec_hdrDecode_eq, if_neg (not_or.2 ⟨hlong, not_not.2 hexp⟩), if_neg hlong]
  by_cases hshort : s.opa.val.toNat < 28
  · rw [if_pos hshort, if_pos hshort]
    exact ⟨_, _, rfl, rfl, rfl, iff_of_true rfl rfl, by simp, fun hne _ => absurd rfl hne⟩
  rw [if_neg hshort, if_neg hshort]
  by_cases hmagic : wireMagic s.pkt ≠ s.params.magic.toNat
  · rw [if_pos hmagic, if_pos hmagic]
    exact ⟨_, _, rfl, rfl, rfl, by simp, iff_of_true rfl rfl, fun _ hne => absurd rfl hne⟩
  · rw [if_neg hmagic, if_neg hmagic]
    obtain ⟨hnotShort, hnotMagic⟩ := verdictNum_filterVerdict_ne s.expName (wireHeader s.pkt s.opa.val.toNat)
    exact ⟨_, _, rfl, rfl, rfl, iff_of_false hnotShort (by simp), iff_of_false hnotMagic (by simp),
      fun _ _ => ⟨rfl, rfl⟩⟩

/-- Settles O34: the sixteenth byte differs from the expected name's, which is zero. -/
theorem sixteenByteNameNeverMatches : Obligations.SixteenByteNameNeverMatches := by
  intro s hshort hlong hexp hconfigured hmagic hlast
  have hname : ∃ i : Fin 16, s.pkt.read (8 + i.val) ≠ s.expName[i] := ⟨15, fun heq => hlast (heq.trans hexp)⟩
  rw [exec_rxClassify_eq, if_neg (not_or.2 ⟨Nat.not_lt.2 hlong, not_not.2 hexp⟩), if_neg (Nat.not_lt.2 hshort),
    if_neg (not_not.2 hmagic)]
  exact ⟨_, rfl, rfl, (verdictNum_filterVerdict _ _ _).trans (if_pos ⟨hconfigured, hname⟩)⟩

end Sys2Proof.Proofs
end

section
/-! SUPPORT. The ring commands one by one: what each answers, the outcomes on an uninitialised ring, and the split write
byte by byte (spec/42_ring.md R201–R203, R205, R207, R209–R213, R215). -/

open Sys2Proof Sys2Proof.Machine

namespace Sys2Proof.Machine

/-! ### The flags (R205, R212, R213) -/

theorem regionNull_iff (r : RingRegs) : regionNull r = true ↔ r.cap = 0 ∨ r.count = 0 := by
  simp [regionNull]

theorem emptyFlag_eq (r : RingRegs) : emptyFlag r = if r.count.toNat = 0 then 1 else 0 := by
  rw [emptyFlag, flagWord_eq]
  exact if_congr (beq_iff_eq.trans BitVec.toNat_inj.symm) rfl rfl

theorem fullFlag_eq (r : RingRegs) :
    fullFlag r = if 0 < r.cap.toNat ∧ r.count.toNat = r.cap.toNat then 1 else 0 := by
  simp only [fullFlag, flagWord_eq, Bool.and_eq_true, bne_iff_ne, beq_iff_eq, register_pos_iff, BitVec.toNat_inj]

/-! ### What each ring command answers (R201–R213) -/

section
variable (s : State)

/-- RB_INIT's checks in order and its effect (R201). -/
theorem exec_rbInit_eq :
    exec .rbInit s =
      if s.opa.val.toNat = 0 then .next { s with status := .of 1 }
      else if s.params.capMax.toNat < s.opa.val.toNat then .next { s with status := .of 2 }
      else .next { s with
        status := .of 0, rb := .empty s.opa.val,
        ring := s.ring.writeRun 0 (drawRun s.nextDraw (2 * s.opa.val.toNat)), nextDraw := s.nextDraw + 1 } := by
  have hcap : BitVec.ofNat 32 s.opa.val.toNat = s.opa.val := by simp
  change execRbInit s = _
  simp only [execRbInit, operandA, hcap]
  rfl

theorem exec_rbDeinit_eq : exec .rbDeinit s = .next { s with status := .of 0, rb := .uninit } := rfl

/-- RB_WRITE's no-op, its checks in order and its effect (R203). -/
theorem exec_rbWrite_eq :
    exec .rbWrite s =
      if s.opb.val.toNat = 0 then .next { s with status := .of 0 }
      else if 1464 < s.opa.val.toNat + s.opb.val.toNat then .next { s with status := .of 1 }
      else if s.rb.cap.toNat - s.rb.count.toNat < s.opb.val.toNat then .next { s with status := .of 3 }
      else .next { s with
        status := .of 0, rb := s.rb.push s.opb.val.toNat,
        ring := ringAppend s.ring s.pkt s.rb.cap.toNat s.rb.head.toNat s.opa.val.toNat s.opb.val.toNat } := by
  change execRbWrite s = _
  simp only [execRbWrite, operandA, operandB, ringFree, Config.pktSize, fail_eq, finishOk_eq, State.setRing, State.setRb]
  rfl

/-- RB_REGION's null region and its region (R205). -/
theorem exec_rbRegion_eq :
    exec .rbRegion s =
      if s.rb.cap = 0 ∨ s.rb.count = 0 then
        .next { s with status := .of 0, res0 := .of 0, res1 := .of 0, res2 := .of 0 }
      else .next { s with status := .of 0, res0 := .of s.rb.tail, res1 := .of s.rb.count, res2 := .of 1 } :=
  if_congr (regionNull_iff s.rb) rfl rfl

/-- RB_CONSUME's no-op, its check and its effect (R207). -/
theorem exec_rbConsume_eq :
    exec .rbConsume s =
      if s.opa.val.toNat = 0 then .next { s with status := .of 0 }
      else if s.rb.count.toNat < s.opa.val.toNat then .next { s with status := .of 4 }
      else .next { s with status := .of 0, rb := s.rb.pop s.opa.val.toNat } := rfl

theorem exec_rbCount_eq : exec .rbCount s = .next { s with status := .of 0, res0 := .of s.rb.count } := rfl

theorem exec_rbCapacity_eq : exec .rbCapacity s = .next { s with status := .of 0, res0 := .of s.rb.cap } := rfl

theorem exec_rbFree_eq :
    exec .rbFree s = .next { s with
      status := .of 0, res0 := .of (BitVec.ofNat 32 (s.rb.cap.toNat - s.rb.count.toNat)) } := rfl

theorem exec_rbEmpty_eq :
    exec .rbEmpty s = .next { s with status := .of 0, res0 := .of (if s.rb.count.toNat = 0 then 1 else 0) } := by
  rw [← emptyFlag_eq]
  rfl

theorem exec_rbFull_eq :
    exec .rbFull s = .next { s with
      status := .of 0, res0 := .of (if 0 < s.rb.cap.toNat ∧ s.rb.count.toNat = s.rb.cap.toNat then 1 else 0) } := by
  rw [← fullFlag_eq]
  rfl

end

/-- RB_WRITE of a legal, non-empty run that fits (R203). -/
theorem exec_rbWrite_of_fits {s : State} (pos : 0 < s.opb.val.toNat)
    (inPkt : s.opa.val.toNat + s.opb.val.toNat ≤ 1464)
    (fit : s.opb.val.toNat ≤ s.rb.cap.toNat - s.rb.count.toNat) :
    exec .rbWrite s = .next { s with
      status := .of 0, rb := s.rb.push s.opb.val.toNat,
      ring := ringAppend s.ring s.pkt s.rb.cap.toNat s.rb.head.toNat s.opa.val.toNat s.opb.val.toNat } := by
  rw [exec_rbWrite_eq, if_neg pos.ne', if_neg (Nat.not_lt.2 inPkt), if_neg (Nat.not_lt.2 fit)]

/-- A successful RB_INIT had a capacity in range (R201). -/
theorem exec_rbInit_ok {s t : State} (h : exec .rbInit s = .next t) (hok : t.status.val = 0) :
    s.opa.val.toNat ≤ s.params.capMax.toNat ∧ t.rb = .empty s.opa.val := by
  rw [exec_rbInit_eq] at h
  split_ifs at h with hzero hlarge
  · cases h; cases hok
  · cases h; cases hok
  · cases h
    exact ⟨Nat.not_lt.1 hlarge, rfl⟩

/-! ### The uninitialised ring (R202, R215) -/

section
variable {s : State} (h : s.rb = .uninit)
include h

theorem exec_rbCount_of_uninit : exec .rbCount s = .next { s with status := .of 0, res0 := .of 0 } := by
  rw [exec_rbCount_eq, h]
  rfl

theorem exec_rbCapacity_of_uninit : exec .rbCapacity s = .next { s with status := .of 0, res0 := .of 0 } := by
  rw [exec_rbCapacity_eq, h]
  rfl

theorem exec_rbFree_of_uninit : exec .rbFree s = .next { s with status := .of 0, res0 := .of 0 } := by
  rw [exec_rbFree_eq, h]
  rfl

theorem exec_rbEmpty_of_uninit : exec .rbEmpty s = .next { s with status := .of 0, res0 := .of 1 } := by
  rw [exec_rbEmpty_eq, h]
  rfl

theorem exec_rbFull_of_uninit : exec .rbFull s = .next { s with status := .of 0, res0 := .of 0 } := by
  rw [exec_rbFull_eq, h]
  rfl

theorem exec_rbRegion_of_uninit :
    exec .rbRegion s = .next { s with status := .of 0, res0 := .of 0, res1 := .of 0, res2 := .of 0 } := by
  rw [exec_rbRegion_eq, if_pos (.inl (congrArg RingRegs.cap h))]

theorem exec_rbDeinit_of_uninit : exec .rbDeinit s = .next { s with status := .of 0 } := by
  rw [exec_rbDeinit_eq, ← h]

/-- No run of bytes fits a ring without capacity (R203). -/
theorem exec_rbWrite_of_uninit :
    exec .rbWrite s = .next { s with
      status := .of (if s.opb.val.toNat = 0 then 0 else if 1464 < s.opa.val.toNat + s.opb.val.toNat then 1 else 3) } := by
  have hroom : s.rb.cap.toNat - s.rb.count.toNat = 0 := by rw [h]; rfl
  rw [exec_rbWrite_eq, hroom]
  split_ifs
  · rfl
  · rfl
  · rfl
  · omega

/-- An empty ring has nothing to consume (R207). -/
theorem exec_rbConsume_of_uninit :
    exec .rbConsume s = .next { s with status := .of (if s.opa.val.toNat = 0 then 0 else 4) } := by
  have hcount : s.rb.count.toNat = 0 := by rw [h]; rfl
  rw [exec_rbConsume_eq, hcount]
  split_ifs
  · rfl
  · rfl
  · omega

/-- Nothing of RING, nor any offset above it, is readable without live storage (R68). -/
theorem not_readableAt_of_uninit {off : Nat} (hoff : 0x10000 ≤ off) (n : Nat) : ¬ ReadableAt s off n := by
  have hcap : s.rb.cap.toNat = 0 := by rw [h]; rfl
  unfold ReadableAt
  omega

end

/-! ### The split write byte by byte (R203, R204) -/

/-- The two segments of a split write and their mirrors do not overlap, whatever the head (R204). -/
theorem ringAppend_read_segments (ring pkt : Memory) {c h src len : Nat} (hlen : len ≤ c) :
    (∀ i < min len (c - h), (ringAppend ring pkt c h src len).read (h + i) = pkt.read (src + i) ∧
      (ringAppend ring pkt c h src len).read (h + i + c) = pkt.read (src + i)) ∧
    (∀ i < len - min len (c - h),
      (ringAppend ring pkt c h src len).read i = pkt.read (src + min len (c - h) + i) ∧
      (ringAppend ring pkt c h src len).read (i + c) = pkt.read (src + min len (c - h) + i)) := by
  refine ⟨fun i hi => ⟨?_, ?_⟩, fun i hi => ⟨?_, ?_⟩⟩ <;> rw [ringAppend_read]
  · rw [if_neg (by omega), if_neg (by omega), if_neg (by omega), if_pos (by omega), Nat.add_sub_cancel_left]
  · rw [if_neg (by omega), if_neg (by omega), if_pos (by omega)]
    congr 1
    omega
  · rw [if_neg (by omega), if_pos hi]
  · rw [if_pos (by omega), Nat.add_sub_cancel]

/-- A split write leaves every offset outside its four ranges alone (R203). -/
theorem ringAppend_read_outside (ring pkt : Memory) {c h src len a : Nat}
    (hhead : ∀ i < min len (c - h), a ≠ h + i ∧ a ≠ h + i + c)
    (hwrapped : ∀ i < len - min len (c - h), a ≠ i ∧ a ≠ i + c) :
    (ringAppend ring pkt c h src len).read a = ring.read a := by
  rw [ringAppend_read, if_neg, if_neg, if_neg, if_neg]
  · intro hin
    have := hhead (a - h) (by omega)
    omega
  · intro hin
    have := hhead (a - (h + c)) (by omega)
    omega
  · intro hin
    exact (hwrapped a hin).1 rfl
  · intro hin
    have := hwrapped (a - c) (by omega)
    omega

end Sys2Proof.Machine

namespace Sys2Proof.Proofs

/-- Settles O35: the draw covers live storage and nothing else. -/
theorem rbInitFollowsItsRule : Obligations.RbInitFollowsItsRule := by
  refine ⟨decode_encode .rbInit, fun s => ?_⟩
  dsimp only
  rw [exec_rbInit_eq]
  split_ifs
  · rfl
  · rfl
  · refine ⟨_, rfl, rfl, fun a ha => ?_, fun a ha => ?_⟩
    · have := s.ring.read_writeRun_inside 0 (drawRun s.nextDraw (2 * s.opa.val.toNat)) a (by rwa [drawRun_length])
      rwa [Nat.zero_add, drawRun_getElem] at this
    · exact s.ring.read_writeRun_outside _ _ _ (.inr (by rwa [drawRun_length, Nat.zero_add]))

/-- Settles O36: RB_DEINIT leaves the uninitialised ring, which has no live storage. -/
theorem rbDeinitFollowsItsRule : Obligations.RbDeinitFollowsItsRule := by
  refine ⟨decode_encode .rbDeinit, fun s => ?_⟩
  refine ⟨_, exec_rbDeinit_eq s, rfl, fun huninit => ?_, exec_rbCount_of_uninit rfl, exec_rbCapacity_of_uninit rfl,
    exec_rbFree_of_uninit rfl, exec_rbEmpty_of_uninit rfl, exec_rbFull_of_uninit rfl, fun who addr n rest hoff => ?_⟩
  · rw [RingRegs.uninit, ← huninit]
  · exact step_of_unreadable rfl (not_readableAt_of_uninit rfl hoff n)

/-- Settles O37: a run that fits is no longer than the capacity, so its segments and their mirrors are apart. -/
theorem rbWriteFollowsItsRule : Obligations.RbWriteFollowsItsRule := by
  refine ⟨decode_encode .rbWrite, fun s => ?_⟩
  dsimp only
  rw [exec_rbWrite_eq]
  split_ifs
  · rfl
  · rfl
  · rfl
  · obtain ⟨hhead, hwrapped⟩ := ringAppend_read_segments s.ring s.pkt (h := s.rb.head.toNat) (src := s.opa.val.toNat)
      (show s.opb.val.toNat ≤ s.rb.cap.toNat by omega)
    exact ⟨_, rfl, rfl, hhead, hwrapped, fun a => ringAppend_read_outside s.ring s.pkt⟩

/-- Settles O39. -/
theorem rbRegionFollowsItsRule : Obligations.RbRegionFollowsItsRule :=
  ⟨decode_encode .rbRegion, exec_rbRegion_eq⟩

/-- Settles O41. -/
theorem rbConsumeFollowsItsRule : Obligations.RbConsumeFollowsItsRule :=
  ⟨decode_encode .rbConsume, exec_rbConsume_eq⟩

/-- Settles O42. -/
theorem ringQueriesFollowTheirRules : Obligations.RingQueriesFollowTheirRules :=
  ⟨decode_encode .rbCount, decode_encode .rbCapacity, decode_encode .rbFree, decode_encode .rbEmpty,
    decode_encode .rbFull, fun s =>
      ⟨exec_rbCount_eq s, exec_rbCapacity_eq s, exec_rbFree_eq s, exec_rbEmpty_eq s, exec_rbFull_eq s⟩⟩

/-- Settles O43. -/
theorem uninitialisedRingOutcomes : Obligations.UninitialisedRingOutcomes := by
  intro s h
  refine ⟨fun hpos hle => ?_, exec_rbDeinit_of_uninit h, exec_rbWrite_of_uninit h, exec_rbConsume_of_uninit h,
    exec_rbRegion_of_uninit h, exec_rbCount_of_uninit h, exec_rbCapacity_of_uninit h, exec_rbFree_of_uninit h,
    exec_rbEmpty_of_uninit h, exec_rbFull_of_uninit h⟩
  rw [exec_rbInit_eq, if_neg hpos.ne', if_neg (Nat.not_lt.2 hle)]
  exact ⟨_, rfl, rfl, rfl⟩

end Sys2Proof.Proofs
end

section
/-! SUPPORT. The ring as a first-in-first-out buffer: the invariant command by command, where RING holds the history
after every run, and the consumer's read of a chunk (spec/42_ring.md R204, R206, R208, R214,
spec/70_reset_and_hazards.md R310). -/

open Sys2Proof Sys2Proof.Machine Sys2Proof.Safety Sys2Proof.Claims

namespace Sys2Proof.Safety

/-! ### The ring registers' invariant, command by command (R214) -/

/-- What a command writes keeps the invariant of the ring registers. -/
theorem ringRegsInv.commandEffect {s u : State} {i : Instr} (h : ringRegsInv s.params s.rb) (e : CommandEffect s i u) :
    ringRegsInv s.params u.rb := by
  cases e with
  | results | header | encode => exact h
  | init pos le => exact ringRegsInv_empty le
  | deinit => exact ringRegsInv_empty (Nat.zero_le _)
  | write pos inPkt fit => exact ringRegsInv_push h pos fit
  | consume pos le => exact ringRegsInv_pop h pos le

/-- A ring query writes result registers only (R205, R209–R213). -/
theorem commandEffect_query {s u : State} {i : Instr} (e : CommandEffect s i u) (hring : i ∈ ringCommands)
    (hquery : i ∉ [Instr.rbInit, .rbDeinit, .rbWrite, .rbConsume]) : u.rb = s.rb ∧ u.ring = s.ring := by
  cases e with
  | results => exact ⟨rfl, rfl⟩
  | header hcodec => exact absurd hring hcodec
  | encode => exact absurd hring (by decide)
  | init | deinit | write | consume => exact absurd (by decide) hquery

/-- The bytes about to be written stand at none of the positions of the stored bytes (R204). -/
theorem ringRegsInv.write_apart {p : Config.Params} {r : RingRegs} (h : ringRegsInv p r) {len i j : Nat}
    (hfit : len ≤ r.cap.toNat - r.count.toNat) (hi : i < len) (hj : j < r.count.toNat) :
    (r.head.toNat + i) % r.cap.toNat ≠ (r.tail.toNat + j) % r.cap.toNat := by
  obtain ⟨-, -, -, -, hhead⟩ := h.of_pos (by omega)
  rw [hhead, Nat.mod_add_mod]
  exact (mod_ne_mod (by omega) (by omega)).symm

/-! ### Where RING holds the history (R36, R206, R208) -/

/-- One of the newest C bytes of the history stands at every live offset of its residue: its position and its mirror. -/
theorem HoldsHistory.getElem?_eq_read {s : State} {h : History} (hh : HoldsHistory s h) {i a : Nat}
    (hi : i < h.written.length) (hnew : h.written.length ≤ i + s.rb.cap.toNat) (hlive : a < 2 * s.rb.cap.toNat)
    (hmod : a % s.rb.cap.toNat = i % s.rb.cap.toNat) : h.written[i]? = some (s.ring.read a) := by
  have hb := List.getElem?_eq_getElem hi
  obtain ⟨hlow, hmirror⟩ := hh.bytes i _ hb hnew
  rw [hb, Option.some_inj, ← hlow]
  by_cases ha : a < s.rb.cap.toNat
  · rw [← hmod, Nat.mod_eq_of_lt ha]
  · have hwrap : a = i % s.rb.cap.toNat + s.rb.cap.toNat := by
      rw [← hmod, Nat.mod_eq_sub_mod (Nat.not_lt.1 ha), Nat.mod_eq_of_lt (by omega)]
      omega
    rw [hlow, hwrap, hmirror]

/-- The j-th stored byte, oldest first, stands j bytes after the tail (R206). -/
theorem HoldsHistory.getElem?_stored {s : State} {h : History} (hinv : Inv s) (hh : HoldsHistory s h) {j : Nat}
    (hj : j < s.rb.count.toNat) : h.written[h.consumed + j]? = some (s.ring.read (s.rb.tail.toNat + j)) := by
  have hcount := hinv.ringRegs.count_le
  have hpos : 0 < s.rb.cap.toNat := by omega
  obtain ⟨-, -, htail, -⟩ := hinv.ringRegs.of_pos hpos
  have hconsumed := hh.consumed
  refine hh.getElem?_eq_read (by omega) (by omega) (by omega) ?_
  rw [hh.tail (register_pos_iff.1 hpos), Nat.mod_add_mod]

/-- The readable region holds the bytes written and not consumed, in order (R208). -/
theorem HoldsHistory.readRun_eq {s : State} {h : History} (hinv : Inv s) (hh : HoldsHistory s h) :
    s.ring.readRun s.rb.tail.toNat s.rb.count.toNat = h.written.drop h.consumed := by
  have hconsumed := hh.consumed
  refine List.ext_getElem ?_ fun j hj hj' => ?_
  · rw [Memory.readRun_length, List.length_drop]
    omega
  · rw [Memory.readRun_length] at hj
    rw [Memory.readRun_getElem, List.getElem_drop]
    exact ((List.getElem_eq_iff _).2 (hh.getElem?_stored hinv hj)).symm

/-- Every run keeps the invariant and the ring holding its history (R33, R36): one step after another. -/
theorem run_keeps_history (n : Nat) {s t : State} {h : History} (hinv : Inv s) (hh : HoldsHistory s h)
    (hrun : Host.Core.run Sys2Proof.core n s = .next t) : Inv t ∧ HoldsHistory t (historyRun n s h) := by
  induction n generalizing s h with
  | zero =>
    cases hrun
    exact ⟨hinv, hh⟩
  | succ n ih =>
    obtain ⟨u, hstep, hrest⟩ := run_next_cases hrun
    rw [historyRun_of_step hstep]
    exact ih (Proofs.everyStepKeepsTheInvariant s u hinv hstep)
      (Proofs.everyStepKeepsTheRingsHistory s u h hinv hh hstep) hrest

/-! ### The consumer's read (R206, R310) -/

section
variable {s : State} {addr : Word} {rest : List HostEvent} {a : Nat} {h : History} {cs : List Chunk}

/-- A byte read of a mapped RING offset is the consumer's read the checked step looks at. -/
theorem consumerRingRead_of_ring (hmap : busTarget s.params (busOffset s.params addr) 1 = some (.ring a)) :
    consumerRingRead s (.access .consumer (.read addr 1)) = some a := by
  simp only [consumerRingRead, hmap]

/-- The checked step of a consumer's RING read stops at an overwritten chunk byte, and is the step otherwise: no RING
byte is unwritten (R38). -/
theorem checkedStep_of_consumerRead (hbus : s.bus = .access .consumer (.read addr 1) :: rest)
    (hmap : busTarget s.params (busOffset s.params addr) 1 = some (.ring a)) :
    checkedStep h cs s =
      if readsLostByte s.rb.cap.toNat h cs a then .fault (.chunkOverwritten a) else checked (step s) := by
  have hread : s.bus.head?.bind (consumerRingRead s) = some a := by
    rw [hbus]
    exact consumerRingRead_of_ring hmap
  have hwritten : firstUnwritten s (.access .consumer (.read addr 1)) = none := by
    simp [firstUnwritten_eq_none_iff, eventReads_read, hmap, unwrittenAt]
  simp only [checkedStep, hread, strictStep_of_written hbus hwritten]

end

/-- A read of byte j of the one chunk handed off is lost exactly when the chunk is of an older epoch or C more bytes
than the byte's own number have been written (R310, R311). -/
theorem readsLostByte_chunk_iff (cap : Nat) (h : History) {c : Chunk} {j : Nat} (hj : j < c.len) :
    readsLostByte cap h [c] (c.off + j) = true ↔ ¬ (c.epoch = h.epoch ∧ h.written.length ≤ c.start + j + cap) := by
  simp only [readsLostByte, chunkByteLost, List.any_cons, List.any_nil, Bool.or_false, Bool.and_eq_true, Bool.or_eq_true,
    decide_eq_true_eq, bne_iff_ne, Nat.add_sub_cancel_left]
  omega

end Sys2Proof.Safety

namespace Sys2Proof.Proofs

/-- Settles O10: the ring holds its history after every run, and so the region is the history's unread end. -/
theorem everyRunKeepsTheRingAFifo : Obligations.EveryRunKeepsTheRingAFifo := by
  intro n s t h hinv hh hrun
  obtain ⟨htinv, hth⟩ := run_keeps_history n hinv hh hrun
  exact ⟨(Nat.add_comm _ _).trans hth.consumed, fun hcap => ⟨hth.head hcap, hth.tail hcap⟩, hth.readRun_eq htinv⟩

/-- Settles O38: the head is count bytes after the tail, so what fits lands between the head and the tail. -/
theorem rbWriteIsTheModularMirroredWrite : Obligations.RbWriteIsTheModularMirroredWrite := by
  intro s hinv
  dsimp only
  intro hpos hpkt hfit
  have hc : 0 < s.rb.cap.toNat := by omega
  have hlen : s.opb.val.toNat ≤ s.rb.cap.toNat := by omega
  obtain ⟨-, hhead, -⟩ := hinv.ringRegs.of_pos hc
  have hlow (x : Nat) : x % s.rb.cap.toNat < s.rb.cap.toNat := Nat.mod_lt x hc
  have hapart (i : Nat) (hi : i < s.opb.val.toNat) (j : Nat) (hj : j < s.rb.count.toNat) :=
    hinv.ringRegs.write_apart hfit hi hj
  refine ⟨by omega, by omega, fun i hi => ⟨?_, hapart i hi⟩, _, exec_rbWrite_of_fits hpos hpkt hfit, rfl,
    fun i hi => ringAppend_read_written s.ring s.pkt hhead hlen hi,
    fun a ha => ringAppend_read_other s.ring s.pkt hhead hlen ha, fun j hj => ?_⟩
  · have := hlow (s.rb.head.toNat + i)
    omega
  · refine ringAppend_read_other s.ring s.pkt hhead hlen fun i hi => ⟨(hapart i hi j hj).symm, ?_⟩
    have := hlow (s.rb.tail.toNat + j)
    omega

/-- Settles O40: the j-th stored byte stands at both offsets of its residue. -/
theorem regionIsContiguousOldestFirst : Obligations.RegionIsContiguousOldestFirst := by
  intro s h hinv hh hne
  have hcount := hinv.ringRegs.count_le
  have hpos : 0 < s.rb.cap.toNat := (register_pos_iff.2 hne).trans_le hcount
  have hcap : s.rb.cap ≠ 0 := register_pos_iff.1 hpos
  obtain ⟨-, -, htail, -⟩ := hinv.ringRegs.of_pos hpos
  refine ⟨_, (exec_rbRegion_eq s).trans (if_neg (not_or.2 ⟨hcap, hne⟩)), rfl, rfl, ?_, fun j hj => ?_⟩
  · change s.rb.tail.toNat + s.rb.count.toNat ≤ _
    omega
  · change j < s.rb.count.toNat at hj
    have hconsumed := hh.consumed
    have hlow := Nat.mod_lt (s.rb.tail.toNat + j) hpos
    have hstored := hh.getElem?_stored hinv hj
    have hposition : h.written[h.consumed + j]? = some (s.ring.read ((s.rb.tail.toNat + j) % s.rb.cap.toNat)) :=
      hh.getElem?_eq_read (by omega) (by omega) (by omega) (by rw [Nat.mod_mod, hh.tail hcap, Nat.mod_add_mod])
    exact ⟨Option.some_inj.1 (hstored.symm.trans hposition), hstored⟩

/-- Settles O44: the invariant by what each command writes; RB_INIT and RB_DEINIT leave an empty ring; a failure writes
STATUS only and a query the result registers. -/
theorem ringCommandsPreserveTheRingInvariant : Obligations.RingCommandsPreserveTheRingInvariant := by
  intro s t i hring _ hexec
  obtain ⟨c, u, he, ht⟩ := exec_next_effect hexec
  have hrb : t.rb = u.rb := ht ▸ rfl
  have hmem : t.ring = u.ring := ht ▸ rfl
  rw [exec_params hexec]
  refine ⟨fun hregs => hrb ▸ hregs.commandEffect he, ?_, ?_⟩
  · rintro (rfl | ⟨rfl, hok⟩)
    · cases hexec
      exact ringRegsInv_empty (Nat.zero_le _)
    · obtain ⟨hle, hempty⟩ := exec_rbInit_ok hexec hok
      rw [hempty]
      exact ringRegsInv_empty hle
  · rintro (hfailed | hquery)
    · rw [failingCommandWritesOnlyStatus i s _ hexec hfailed]
      exact ⟨rfl, fun _ => rfl⟩
    · obtain ⟨hrb', hmem'⟩ := commandEffect_query he hring hquery
      exact ⟨hrb.trans hrb', fun a => congrArg (Memory.read · a) (hmem.trans hmem')⟩

/-- Settles O48: byte j of the chunk stands at its residue's offsets for as long as it is among the newest C bytes. -/
theorem consumerReadsItsChunkOrFaults : Obligations.ConsumerReadsItsChunkOrFaults := by
  intro s h c j addr rest hinv hh hcap hlen hoff hj hwritten hbus haddr
  have hpos : 0 < s.rb.cap.toNat := register_pos_iff.2 hcap
  obtain ⟨hmax, -⟩ := hinv.ringRegs.of_pos hpos
  have hlow : c.off < s.rb.cap.toNat := hoff ▸ Nat.mod_lt _ hpos
  have hlive : c.off + j < 2 * s.rb.cap.toNat := by omega
  have hmap : busTarget s.params (busOffset s.params addr) 1 = some (.ring (c.off + j)) := by
    rw [busOffset, haddr, Nat.add_assoc, busTarget_one]
    exact byteTarget_ring s.params (by omega)
  rw [checkedStep_of_consumerRead hbus hmap]
  simp only [readsLostByte_chunk_iff _ h hj, ite_not]
  split
  next hkept =>
    obtain ⟨hepoch, hnew⟩ := hkept
    have hstored := hwritten hepoch
    have hmod : (c.off + j) % s.rb.cap.toNat = (c.start + j) % s.rb.cap.toNat := by rw [hoff, Nat.mod_add_mod]
    refine ⟨_, hh.getElem?_eq_read (by omega) hnew hlive hmod, ?_⟩
    rw [step_of_read hbus hmap (readTarget_ring hlive)]
    rfl
  next => rfl

end Sys2Proof.Proofs
end

section
/-! SUPPORT. Proofs for spec/60_exceptions.md: the idle block (R275). -/

open Sys2Proof Sys2Proof.Machine

namespace Sys2Proof.Machine

/-- With no host event waiting a step is idle (R275): the case of `hostStep` beside `step_of_bus`. -/
theorem step_of_bus_nil {s : State} (h : s.bus = []) : step s = .next s := by
  simp only [step, hostStep, h]

end Sys2Proof.Machine

namespace Sys2Proof.Proofs

/-- Settles O15. -/
theorem idleBlockKeepsItsState : Obligations.IdleBlockKeepsItsState :=
  fun _ hbus => step_of_bus_nil hbus

end Sys2Proof.Proofs
end

section
/-! SUPPORT. Proofs for spec/70_reset_and_hazards.md: the platform's reset (R290), that every command ends (R315), the
room the host's sizing leaves (R294), the drain loop (R293), and how long a consumed chunk stands in RING (R311). -/

open Sys2Proof Sys2Proof.Machine Sys2Proof.Safety

namespace Sys2Proof.Machine

/-! ### Every command ends with a status (R315) -/

/-- The outcome is a next state whose STATUS was written with a status a command may end with: IllegalCommand, 8, is the
status of a word that is no command (R103, R266). -/
def EndsWithStatus (o : Host.Outcome State Fault Refusal) : Prop :=
  ∃ t, o = .next t ∧ t.status.written = true ∧ t.status.val.toNat ≤ 7

theorem EndsWithStatus.finished (s : State) : EndsWithStatus (finishOk s) := ⟨_, rfl, rfl, Nat.zero_le _⟩

theorem statusNum_le_seven {c : StatusCode} (hc : c ≠ .illegalCommand) : (statusNum c).toNat ≤ 7 := by
  cases c with
  | illegalCommand => exact absurd rfl hc
  | _ => decide

theorem EndsWithStatus.failed {c : StatusCode} (s : State) (hc : c ≠ .illegalCommand := by decide) :
    EndsWithStatus (fail c s) :=
  ⟨_, rfl, rfl, statusNum_le_seven hc⟩

/-- A check of the pseudocode keeps the way a command ends. -/
theorem EndsWithStatus.ite {p : Prop} [Decidable p] {a b : Host.Outcome State Fault Refusal} (ha : EndsWithStatus a)
    (hb : EndsWithStatus b) : EndsWithStatus (if p then a else b) := by
  split
  · exact ha
  · exact hb

open EndsWithStatus in
/-- Every command ends with a status of its own, each case along the checks of its pseudocode (R315). -/
theorem exec_endsWithStatus (i : Instr) (s : State) : EndsWithStatus (exec i s) := by
  cases i with
  | hdrDecode => exact ite (failed s) (ite (failed s) (ite (failed s) (finished _)))
  | hdrEncode => exact ite (failed s) (finished _)
  | packSrsp | packFmt => exact ite (finished _) (failed s)
  | hzToSr =>
    change EndsWithStatus (execHzToSr s)
    unfold execHzToSr
    split
    · exact finished _
    · exact finished _
  | rxClassify =>
    exact ite (failed s) (ite (failed s) (ite (finished _) (ite (finished _) (finished _))))
  | rbInit => exact ite (failed s) (ite (failed s) (finished _))
  | rbWrite => exact ite (finished _) (ite (failed s) (ite (failed s) (finished _)))
  | rbConsume => exact ite (finished _) (ite (failed s) (finished _))
  | rbRegion => exact ite (finished _) (finished _)
  | unpackSrsp | unpackFmt | srToHz | dtSize | expectLen | rbDeinit | rbCount | rbCapacity | rbFree | rbEmpty | rbFull =>
    exact finished _

end Sys2Proof.Machine

namespace Sys2Proof.Safety

/-! ### The platform's reset (R290) -/

/-- Reset leaves the state of R38 whatever came before, PKT and RING being two new draws. -/
theorem atReset_platformReset (s : State) : AtReset (platformReset s) :=
  { Proofs.resetLeavesTheStatedValues with
    memories :=
      ⟨s.nextDraw, s.nextDraw + 1, Nat.ne_of_lt (Nat.lt_succ_self _), Memory.read_drawn _, Memory.read_drawn _⟩
    parameters := ⟨rfl, rfl⟩ }

/-! ### The history within one epoch (R36, R208) -/

/-- What a run may do to the capacity c and the history h of a ring, leaving d and g: the epoch only grows, and while it
stays the capacity stays and bytes are only appended. RB_INIT, RB_DEINIT and reset are the ones that begin an epoch. -/
structure HistoryGrows (c d : Word) (h g : History) : Prop where
  epoch_le : h.epoch ≤ g.epoch
  of_epoch_eq : g.epoch = h.epoch → d = c ∧ h.written <+: g.written

theorem HistoryGrows.refl (c : Word) (h : History) : HistoryGrows c c h h :=
  ⟨le_rfl, fun _ => ⟨rfl, List.prefix_rfl⟩⟩

theorem HistoryGrows.fresh (c d : Word) (h : History) : HistoryGrows c d h (.fresh (h.epoch + 1)) :=
  ⟨Nat.le_succ _, fun heq => absurd heq (Nat.succ_ne_self _)⟩

theorem HistoryGrows.trans {c d e : Word} {h g k : History} (first : HistoryGrows c d h g)
    (second : HistoryGrows d e g k) : HistoryGrows c e h k := by
  refine ⟨first.epoch_le.trans second.epoch_le, fun heq => ?_⟩
  have hmid : g.epoch = h.epoch := le_antisymm (heq ▸ second.epoch_le) first.epoch_le
  obtain ⟨hcap, hprefix⟩ := first.of_epoch_eq hmid
  obtain ⟨hcap', hprefix'⟩ := second.of_epoch_eq (heq.trans hmid.symm)
  exact ⟨hcap'.trans hcap, hprefix.trans hprefix'⟩

/-- Only RB_INIT and RB_DEINIT change the capacity, and they begin an epoch; RB_WRITE appends (R201–R203). -/
theorem HistoryGrows.commandEffect {s u : State} {i : Instr} (e : CommandEffect s i u) (h : History) :
    HistoryGrows s.rb.cap u.rb.cap h (historyOfCommand s h i) := by
  cases e with
  | results r0 r1 r2 idle => rw [idle]; exact .refl _ h
  | header hi => rw [historyOfCommand_codec hi]; exact .refl _ h
  | encode => exact .refl _ h
  | init pos le => rw [historyOfCommand, if_pos ⟨pos, le⟩]; exact .fresh _ _ h
  | deinit => exact .fresh _ _ h
  | write pos inPkt fit =>
    rw [historyOfCommand, if_pos ⟨inPkt, fit⟩]
    exact ⟨le_rfl, fun _ => ⟨rfl, List.prefix_append _ _⟩⟩
  | consume pos le =>
    rw [historyOfCommand, if_pos le]
    exact ⟨le_rfl, fun _ => ⟨rfl, List.prefix_rfl⟩⟩

theorem HistoryGrows.cmdWrite {who : Agent} {addr w : Word} {n : Nat} {s t : State} (h : History)
    (rest : List HostEvent) (hmap : busTarget s.params (busOffset s.params addr) n = some .cmd)
    (hrun : runCommand w (s.setBus rest) = .next t) :
    HistoryGrows s.rb.cap t.rb.cap h (historyOfEvent s h (.access who (.write addr n w))) := by
  obtain ⟨i, hdec, hexec⟩ | ⟨⟨e, hdec⟩, rfl⟩ := runCommand_next_cases hrun
  · obtain ⟨c, u, he, rfl⟩ := exec_next_effect hexec
    have hu := HistoryGrows.commandEffect he h
    rw [historyOfCommand_setBus] at hu
    simp only [historyOfEvent, hmap, hdec]
    exact hu
  · simp only [historyOfEvent, hmap, hdec]
    exact .refl _ h

theorem HistoryGrows.step {s t : State} (h : History) (hstep : step s = .next t) :
    HistoryGrows s.rb.cap t.rb.cap h (historyStep s h) := by
  obtain ⟨hbus, rfl⟩ | ⟨rest, hbus, rfl⟩ | ⟨rest, who, addr, n, tg, v, hbus, -, -, rfl⟩ |
    ⟨rest, who, addr, n, w, hbus, hmap, hcmd⟩ | ⟨rest, who, addr, n, v, tg, hbus, hmap, hne, hwrite⟩ :=
    step_next_cases hstep
  · rw [historyStep, hbus]
    exact .refl _ h
  · rw [historyStep, hbus]
    exact .fresh _ _ h
  · rw [historyStep, hbus]
    exact .refl _ h
  · rw [historyStep, hbus]
    exact .cmdWrite h rest hmap hcmd
  · have hrb : t.rb = s.rb := (congrArg State.rb (writeTarget_cases hwrite) :)
    rw [historyStep, hbus, hrb]
    simpa only [historyOfEvent_stored hmap hne] using HistoryGrows.refl s.rb.cap h

theorem HistoryGrows.run (n : Nat) {s t : State} (h : History) (hrun : Host.Core.run Sys2Proof.core n s = .next t) :
    HistoryGrows s.rb.cap t.rb.cap h (historyRun n s h) := by
  induction n generalizing s h with
  | zero =>
    cases hrun
    exact .refl _ h
  | succ n ih =>
    obtain ⟨u, hstep, hrest⟩ := run_next_cases hrun
    rw [historyRun_of_step hstep]
    exact (HistoryGrows.step h hstep).trans (ih (historyStep s h) hrest)

/-! ### The drain loop (R293) -/

/-- The state one round of the drain loop leaves: RB_COUNT, RB_REGION and RB_CONSUME of k bytes. -/
def handedOff (k : Word) (s : State) : State :=
  { s with
    status := .of 0, opa := .of k, res0 := .of s.rb.tail, res1 := .of s.rb.count, res2 := .of 1,
    rb := s.rb.pop k.toNat }

section
variable {k : Word} {s : State} (hinv : Inv s) (hk : 1 ≤ k.toNat) (hstored : k.toNat ≤ s.rb.count.toNat)
include hinv hk hstored

/-- A round that goes on hands off the chunk at the tail. -/
theorem drainLoop_handOff (fuel : Nat) :
    drainLoop k (fuel + 1) s =
      ((drainLoop k fuel (handedOff k s)).1,
        (s.rb.tail.toNat, k.toNat) :: (drainLoop k fuel (handedOff k s)).2) := by
  have hle := hinv.ringRegs.count_le
  have hcap : s.rb.cap ≠ 0 := register_pos_iff.1 (by omega)
  have hcount : s.rb.count ≠ 0 := register_pos_iff.1 (by omega)
  have hregion : hostCommand .rbRegion (hostCommand .rbCount s) =
      { s with status := .of 0, res0 := .of s.rb.tail, res1 := .of s.rb.count, res2 := .of 1 } := by
    rw [hostCommand_of_exec (exec_rbCount_eq s)]
    exact hostCommand_of_exec ((exec_rbRegion_eq _).trans (if_neg (not_or.2 ⟨hcap, hcount⟩)))
  have hconsume :
      hostCommand .rbConsume ((hostCommand .rbRegion (hostCommand .rbCount s)).setOpa k) = handedOff k s := by
    rw [hregion]
    refine hostCommand_of_exec ((exec_rbConsume_eq _).trans ?_)
    exact (if_neg (Nat.pos_iff_ne_zero.1 hk)).trans (if_neg (Nat.not_lt.2 hstored))
  rw [drainLoop_round k fuel s hstored]
  dsimp only
  rw [hconsume, hregion]
  rfl

theorem Inv.handedOff : Inv (handedOff k s) :=
  ⟨ringRegsInv_pop hinv.ringRegs hk hstored, hinv.params, Nat.zero_le _, hinv.pkt, hinv.ring⟩

theorem HoldsHistory.handedOff {h : History} (hh : HoldsHistory s h) :
    HoldsHistory (handedOff k s) { h with consumed := h.consumed + k.toNat } := by
  have hle := hinv.ringRegs.count_le
  exact (hh.consume (by omega) hstored).congr rfl rfl

end

/-- What n rounds of the drain loop leave, with m bytes over: the bytes taken off the history, RING as it was, and the
chunks handed off one after another from the oldest stored byte on. -/
structure Drained (s : State) (h : History) (k n m : Nat) (r : State × List (Nat × Nat)) : Prop where
  count : r.1.rb.count.toNat = m
  history : HoldsHistory r.1 { h with consumed := h.consumed + n * k }
  ring : r.1.ring = s.ring
  chunks : r.2 = (List.range n).map fun i => ((h.consumed + i * k) % s.rb.cap.toNat, k)

/-- One chunk and then n chunks are n + 1 chunks. -/
theorem Drained.cons {s : State} {h : History} {k : Word} {n m : Nat} {r : State × List (Nat × Nat)}
    (htail : s.rb.tail.toNat = h.consumed % s.rb.cap.toNat)
    (d : Drained (handedOff k s) { h with consumed := h.consumed + k.toNat } k.toNat n m r) :
    Drained s h k.toNat (n + 1) m (r.1, (s.rb.tail.toNat, k.toNat) :: r.2) := by
  have hshift (i : Nat) : h.consumed + k.toNat + i * k.toNat = h.consumed + (i + 1) * k.toNat := by
    rw [Nat.succ_mul]
    omega
  refine ⟨d.count, ?_, d.ring, ?_⟩
  · rw [← hshift]
    exact d.history
  · rw [d.chunks, List.range_succ_eq_map, List.map_cons, List.map_map, htail, Nat.zero_mul, Nat.add_zero]
    simp only [hshift]
    rfl

/-- With n chunks and m bytes stored the loop goes round n times, and once more to find too few bytes. -/
theorem drainLoop_drained (n : Nat) {m fuel : Nat} {k : Word} {s : State} {h : History} (hinv : Inv s)
    (hh : HoldsHistory s h) (hm : m < k.toNat) (hcount : s.rb.count.toNat = n * k.toNat + m) (hfuel : n < fuel) :
    Drained s h k.toNat n m (drainLoop k fuel s) := by
  obtain ⟨fuel, rfl⟩ : ∃ f, fuel = f + 1 := ⟨fuel - 1, by omega⟩
  induction n generalizing fuel s h with
  | zero =>
    rw [drainLoop_stop k fuel s (by omega)]
    refine ⟨by simpa using hcount, ?_, rfl, rfl⟩
    rw [Nat.zero_mul, Nat.add_zero]
    exact hh.congr rfl rfl
  | succ n ih =>
    rw [Nat.succ_mul] at hcount
    obtain ⟨fuel, rfl⟩ : ∃ f, fuel = f + 1 := ⟨fuel - 1, by omega⟩
    have hk : 1 ≤ k.toNat := by omega
    have hstored : k.toNat ≤ s.rb.count.toNat := by omega
    have hle := hinv.ringRegs.count_le
    rw [drainLoop_handOff hinv hk hstored]
    refine .cons (hh.tail (register_pos_iff.1 (by omega))) ?_
    refine ih (hinv.handedOff hk hstored) (hh.handedOff hinv hk hstored) ?_ fuel (by omega)
    rw [show (handedOff k s).rb = s.rb.pop k.toNat from rfl, RingRegs.pop_count_toNat]
    omega

/-- A run of stored bytes stands contiguous from the position of its first byte, wrapped or not (R206). -/
theorem HoldsHistory.readRun_position {s : State} {h : History} (hinv : Inv s) (hh : HoldsHistory s h) {d k : Nat}
    (hstored : d + k ≤ s.rb.count.toNat) :
    s.ring.readRun ((h.consumed + d) % s.rb.cap.toNat) k = (h.written.drop (h.consumed + d)).take k := by
  have hconsumed := hh.consumed
  have hle := hinv.ringRegs.count_le
  refine List.ext_getElem ?_ fun j hj _ => ?_
  · rw [Memory.readRun_length, List.length_take, List.length_drop]
    omega
  · rw [Memory.readRun_length] at hj
    have hlow := Nat.mod_lt (h.consumed + d) (show 0 < s.rb.cap.toNat by omega)
    rw [Memory.readRun_getElem, List.getElem_take, List.getElem_drop]
    refine ((List.getElem_eq_iff _).2 (hh.getElem?_eq_read (by omega) (by omega) (by omega) ?_)).symm
    rw [Nat.mod_add_mod]

end Sys2Proof.Safety

namespace Sys2Proof.Proofs

/-- Settles O47: byte j of the chunk is byte number p = consumed − k + j of the history; its offset holds byte p while at
most p + C bytes are written, and byte p + C while at most C more are. -/
theorem chunkLivesUntilOverwritten : Obligations.ChunkLivesUntilOverwritten := by
  intro n s t h k j hinv hh hcap hrun hepoch hk hfree hj
  obtain ⟨-, hholds⟩ := run_keeps_history n hinv hh hrun
  obtain ⟨hcapT, hgrown⟩ := (HistoryGrows.run n h hrun).of_epoch_eq hepoch
  generalize historyRun n s h = g at hholds hgrown
  dsimp only
  have hlow := Nat.mod_lt (h.consumed - k) (register_pos_iff.2 hcap)
  have hconsumed := hh.consumed
  have hlonger := hgrown.length_le
  have hlive : (h.consumed - k) % s.rb.cap.toNat + j < 2 * s.rb.cap.toNat := by omega
  have hmod : ((h.consumed - k) % s.rb.cap.toNat + j) % s.rb.cap.toNat = (h.consumed - k + j) % s.rb.cap.toNat :=
    Nat.mod_add_mod _ _ _
  have hstands (i : Nat) (hi : i < g.written.length) (hnew : g.written.length ≤ i + s.rb.cap.toNat)
      (hresidue : (h.consumed - k + j) % s.rb.cap.toNat = i % s.rb.cap.toNat) :
      g.written[i]? = some (t.ring.read ((h.consumed - k) % s.rb.cap.toNat + j)) := by
    rw [← hcapT] at hmod hresidue hnew hlive ⊢
    exact hholds.getElem?_eq_read hi hnew hlive (hmod.trans hresidue)
  refine ⟨fun hkept => ?_, fun hpassed hnotTwice => ?_⟩
  · have hbefore := hh.getElem?_eq_read (by omega) (by omega) hlive hmod
    have hafter := hstands (h.consumed - k + j) (by omega) (by omega) rfl
    have hsame : g.written[h.consumed - k + j]? = h.written[h.consumed - k + j]? :=
      (List.prefix_iff_getElem?.1 hgrown _ (by omega)).trans (List.getElem?_eq_getElem _).symm
    exact Option.some_inj.1 (hafter.symm.trans (hsame.trans hbefore))
  · have hnumber : h.written.length + (s.rb.cap.toNat - s.rb.count.toNat + j - k) =
        h.consumed - k + j + s.rb.cap.toNat := by omega
    exact hstands _ (by omega) (by omega) (by rw [hnumber, Nat.add_mod_right])

/-- Settles O46: n chunks from the oldest stored byte on, each contiguous from its first byte's position. -/
theorem drainLoopHandsOffEveryWholeChunk : Obligations.DrainLoopHandsOffEveryWholeChunk := by
  intro s h k hinv hh hk
  have hcount := (Nat.div_add_mod' s.rb.count.toNat k.toNat).symm
  obtain ⟨hleft, hholds, hring, hchunks⟩ := drainLoop_drained _ hinv hh (Nat.mod_lt _ hk) hcount
    (Nat.lt_succ_of_le (Nat.div_le_self s.rb.count.toNat k.toNat))
  refine ⟨hleft, hholds, fun a => by rw [hring], by rw [hchunks, List.length_map, List.length_range], fun i hi => ?_⟩
  have hstored : i * k.toNat + k.toNat ≤ s.rb.count.toNat := by
    rw [← Nat.succ_mul]
    exact (Nat.mul_le_mul_right _ hi).trans (Nat.div_mul_le_self _ _)
  have hle := hinv.ringRegs.count_le
  have hlow := Nat.mod_lt (h.consumed + i * k.toNat) (show 0 < s.rb.cap.toNat by omega)
  refine ⟨(h.consumed + i * k.toNat) % s.rb.cap.toNat, ?_, by omega, ?_⟩
  · rw [hchunks, List.getElem?_map, List.getElem?_range hi]
    rfl
  · rw [hring]
    exact hh.readRun_position hinv hstored

/-- Settles O45: fewer than k bytes stored leave room for 1436 more; of 1436 bytes an empty ring alone has them free. -/
theorem enoughCapacityNeverDropsAPayload : Obligations.EnoughCapacityNeverDropsAPayload := by
  refine ⟨fun s k _ hk hcap hcount hlen hpkt => ?_, fun s _ hcap hlen hsrc => ?_⟩
  · by_cases hzero : s.opb.val.toNat = 0
    · exact ⟨_, (exec_rbWrite_eq s).trans (if_pos hzero), rfl⟩
    · exact ⟨_, exec_rbWrite_of_fits (Nat.pos_of_ne_zero hzero) hpkt (by omega), rfl⟩
  · by_cases hempty : s.rb.count = 0
    · have hroom : s.rb.count.toNat = 0 := by rw [hempty]; rfl
      exact ⟨_, exec_rbWrite_of_fits (by omega) (by omega) (by omega), iff_of_true rfl hempty,
        iff_of_false nofun (not_not.2 hempty)⟩
    · have hstored : 0 < s.rb.count.toNat := register_pos_iff.2 hempty
      refine ⟨{ s with status := .of 3 }, ?_, iff_of_false nofun hempty, iff_of_true rfl hempty⟩
      rw [exec_rbWrite_eq, if_neg (by omega), if_neg (by omega), if_pos (by omega)]

/-- Settles O16. -/
theorem everyCommandEndsWithAStatus : Obligations.EveryCommandEndsWithAStatus := exec_endsWithStatus

/-- Settles O6: a reset event is the platform's reset of the state with the event spent. -/
theorem platformResetRestoresTheResetState : Obligations.PlatformResetRestoresTheResetState :=
  ⟨fun s rest hbus => ⟨platformReset (s.setBus rest), step_of_bus hbus, atReset_platformReset _, rfl, rfl, rfl,
    Memory.read_drawn _, Memory.read_drawn _, rfl⟩, exec_rbDeinit_eq⟩

end Sys2Proof.Proofs
end
